-- ==== Sys2Proof/Word.lean ====
section
/-! DEFINITION. The word types of the block. Every value is unsigned and bits are numbered from 0, the least
significant (00_scope.md R9); operand types `uN` are `BitVec N` (R14), so no operand can hold a value outside its type. -/

namespace Sys2Proof

/-- One transmitted byte (20_memory.md R50: "Bytes are 8 bits"). -/
abbrev Byte := BitVec 8

/-- A one-bit operand or register, `bit` of 00_scope.md R14. -/
abbrev Bit := BitVec 1

/-- A 16-bit station or measurement-point address (10_state.md R27, R28). -/
abbrev Address := BitVec 16

end Sys2Proof
end

