-- ==== Sys2Proof/Config.lean ====
section
/-! DEFINITION. The constants the source fixes (00_scope.md R6, R7) and the open parameters the model takes as fields
of its configuration (00_scope.md R8). -/

namespace Sys2Proof

/-- `START_FIXED` (00_scope.md R6). -/
abbrev startFixed : Byte := 0x10#8

/-- `START_VAR` (00_scope.md R6). -/
abbrev startVar : Byte := 0x68#8

/-- `END` (00_scope.md R6). -/
abbrev endByte : Byte := 0x16#8

/-- `HDR_OVERHEAD`, also `L_MIN` (00_scope.md R6, R7). -/
abbrev hdrOverhead : Nat := 9

/-- `FIXED_LEN` (00_scope.md R6). -/
abbrev fixedLen : Nat := 6

/-- `VAR_EXTRA` (00_scope.md R6). -/
abbrev varExtra : Nat := 6

/-- `N_MAX`, the most message data bytes a variable frame carries (00_scope.md R7). -/
abbrev maxData : Nat := 246

/-- `BUF_SIZE`, the bytes of PRS.BUF (00_scope.md R7, 10_state.md R21). -/
abbrev bufSize : Nat := 261

/-- `YEAR_BASE` (00_scope.md R6, 43_time_codec.md R185). -/
abbrev yearBase : BitVec 12 := 2000#12

/-- `FC_LINK_STATUS`, the one function code the source gives (00_scope.md R6). -/
abbrev fcLinkStatus : BitVec 4 := 9#4

/-- The longest byte-sequence operand, `bytes[0..65535]` (30_encoding.md R100). -/
abbrev maxSeq : Nat := 65535

/-- The two values of the parameter `T7_ORDER` (00_scope.md R8, 30_encoding.md R86). -/
inductive T7Order where
  /-- Seconds in the lowest bits of the 7-byte time. -/
  | secLow
  /-- Milliseconds in the lowest bits of the 7-byte time. -/
  | msLow
deriving DecidableEq, Repr

/-- The open parameters of 00_scope.md R8. -/
structure Config where
  /-- `FC_RESET_LINK`, function code of the reset-remote-link request. -/
  fcResetLink : BitVec 4
  /-- `FC_REQ_CLASS2`, function code of the class-2 data request. -/
  fcReqClass2 : BitVec 4
  /-- `FC_USER_DATA`, function code of a request that carries a message. -/
  fcUserData : BitVec 4
  /-- `T7_ORDER`, the order of seconds and milliseconds. -/
  t7Order : T7Order
  /-- `FCB_RESET`, SEQ.FCB after reset. -/
  fcbReset : Bit
deriving DecidableEq, Repr

/-- The defaults of 00_scope.md R8 (decisions D21, D23, D25 of the spec; assumption log 2). -/
def Config.standard : Config :=
  { fcResetLink := 0, fcReqClass2 := 11, fcUserData := 3, t7Order := .secLow, fcbReset := 0 }

end Sys2Proof
end

