-- ==== Sys2Proof/Syntax.lean ====
section
/-! DEFINITION. The operations of the block, one constructor for each row of spec/opcode_table.json: the 24 operations
of 30_encoding.md R100, the 8 reserved codes of R102 and the 7 wire-format rows (R70). Operands are typed as the
operand column of R100 types them. -/

namespace Sys2Proof

/-- The five fields of a control byte (30_encoding.md R72). -/
structure Ctrl where
  res : Bit
  prm : Bit
  fcb : Bit
  fcv : Bit
  fc  : BitVec 4
deriving DecidableEq, Repr

/-- The three fields of a cause byte (30_encoding.md R77). -/
structure Cause where
  t     : Bit
  pn    : Bit
  cause : BitVec 6
deriving DecidableEq, Repr

/-- The operands of FIXBLD, and the fields of a fixed frame value (42_frame_parser.md R159). -/
structure FixFields where
  ctrl : Ctrl
  addr : Address
deriving DecidableEq, Repr

/-- The operands of VARBLD, and the fields of a variable frame value (42_frame_parser.md R160). -/
structure VarFields where
  ctrl : Ctrl
  addr : Address
  tid  : Byte
  vsq  : Byte
  cot  : Cause
  pm   : Address
  ra   : Byte
  data : List Byte
deriving DecidableEq, Repr

/-- The operands of USERDATA (44_sequencer.md R217). -/
structure UserFields where
  tid  : Byte
  vsq  : Byte
  cot  : Cause
  ra   : Byte
  data : List Byte
deriving DecidableEq, Repr

/-- The 13 fields of a compact time (43_time_codec.md R181, 30_encoding.md R85). -/
structure TimeFields where
  minute : BitVec 6
  tis    : Bit
  iv     : Bit
  hour   : BitVec 5
  res1   : BitVec 2
  su     : Bit
  dom    : BitVec 5
  dow    : BitVec 3
  month  : BitVec 4
  eti    : BitVec 2
  pti    : BitVec 2
  year   : BitVec 7
  res2   : Bit
deriving DecidableEq, Repr

/-- Exactly five bytes, the operand of T5DEC; `b0` is the byte at index 0 (43_time_codec.md R180, R182). -/
structure Bytes5 where
  b0 : Byte
  b1 : Byte
  b2 : Byte
  b3 : Byte
  b4 : Byte
deriving DecidableEq, Repr

/-- Exactly seven bytes, the operand of T7DEC: the two bytes of seconds and milliseconds, then a 5-byte compact time
(30_encoding.md R86: "`t[2..6]` are a 5-byte compact time"). -/
structure Bytes7 where
  b0   : Byte
  b1   : Byte
  rest : Bytes5
deriving DecidableEq, Repr

/-- One item the host issues to the block. -/
inductive Instr where
  -- The 24 operations (30_encoding.md R100).
  | sum8 (s : List Byte)
  | ctrlpk (c : Ctrl)
  | ctrlup (c : Byte)
  | cotpk (c : Cause)
  | cotup (b : Byte)
  | fixbld (x : FixFields)
  | varbld (x : VarFields)
  | feed (b : Byte)
  | abort
  | parse (m : List Byte)
  | t5enc (f : TimeFields)
  | t5dec (t : Bytes5)
  | t7enc (ms : BitVec 10) (sec : BitVec 6) (f : TimeFields)
  | t7dec (t : Bytes7)
  | wrder (v : Address)
  | wrpm (v : Address)
  | rdreg (k : BitVec 3)
  | errclr
  | fcbnext
  | linkstat
  | linkrst
  | class2
  | userdata (x : UserFields)
  | reset
  -- The 8 reserved command codes (30_encoding.md R102).
  | reserved00
  | reserved06
  | reserved07
  | reserved0A
  | reserved0B
  | reserved0F
  | reserved1D
  | reserved1E
  -- The 7 wire formats, as items of the received byte stream (30_encoding.md R70; assumption log 5).
  | wireFixedFrame (x : FixFields) (cs : Byte)
  | wireControlByte (c : Ctrl)
  | wireVariableFrameHead (l : Byte) (c : Ctrl) (addr : Address) (tid vsq : Byte) (cot : Cause) (pm : Address) (ra : Byte)
  | wireCauseByte (c : Cause)
  | wireTime5 (f : TimeFields)
  | wireTime7SecLow (ms : BitVec 10) (sec : BitVec 6) (f : TimeFields)
  | wireTime7MsLow (ms : BitVec 10) (sec : BitVec 6) (f : TimeFields)
deriving DecidableEq, Repr

end Sys2Proof
end

