-- ==== Sys2Proof/Machine/Operands.lean ====
section
/-! DEFINITION. The operand forms: byte order of 16-bit fields, the packings of the control byte, the cause byte and
the compact times, and the checksum. All are pure functions of their operands. -/

namespace Sys2Proof.Machine

/-- `lo8(v) = v[7:0]` (00_scope.md R10). -/
def lo8 (v : BitVec 16) : Byte := v.extractLsb' 0 8

/-- `hi8(v) = v[15:8]` (00_scope.md R10). -/
def hi8 (v : BitVec 16) : Byte := v.extractLsb' 8 8

/-- `u16le`: low byte first (00_scope.md R10, 20_memory.md R54, 30_encoding.md R87). -/
def u16le (lo hi : Byte) : BitVec 16 := hi ++ lo

/-- The additive checksum modulo 256 (40_checksum_and_byte_fields.md R110). -/
def sum8 (s : List Byte) : Byte := s.foldl (· + ·) 0

/-- `{res, prm, fcb, fcv, fc[3:0]}` (30_encoding.md R72, 40_checksum_and_byte_fields.md R113). -/
def packCtrl (c : Ctrl) : Byte := c.res ++ c.prm ++ c.fcb ++ c.fcv ++ c.fc

/-- The fields of a control byte (40_checksum_and_byte_fields.md R114). -/
def unpackCtrl (c : Byte) : Ctrl :=
  { res := c.extractLsb' 7 1, prm := c.extractLsb' 6 1, fcb := c.extractLsb' 5 1, fcv := c.extractLsb' 4 1,
    fc := c.extractLsb' 0 4 }

/-- `{t, pn, cause[5:0]}` (30_encoding.md R77, 40_checksum_and_byte_fields.md R115). -/
def packCause (c : Cause) : Byte := c.t ++ c.pn ++ c.cause

/-- The fields of a cause byte (40_checksum_and_byte_fields.md R116). -/
def unpackCause (b : Byte) : Cause :=
  { t := b.extractLsb' 7 1, pn := b.extractLsb' 6 1, cause := b.extractLsb' 0 6 }

/-- The five bytes of a compact time (43_time_codec.md R183, 30_encoding.md R85). -/
def packTime (f : TimeFields) : Bytes5 :=
  { b0 := f.iv ++ f.tis ++ f.minute
    b1 := f.su ++ f.res1 ++ f.hour
    b2 := f.dow ++ f.dom
    b3 := f.pti ++ f.eti ++ f.month
    b4 := f.res2 ++ f.year }

/-- The 13 fields as the bits stand, before the substitution of zero day and month (30_encoding.md R85, R89). -/
def unpackTime (t : Bytes5) : TimeFields :=
  { minute := t.b0.extractLsb' 0 6, tis := t.b0.extractLsb' 6 1, iv := t.b0.extractLsb' 7 1
    hour := t.b1.extractLsb' 0 5, res1 := t.b1.extractLsb' 5 2, su := t.b1.extractLsb' 7 1
    dom := t.b2.extractLsb' 0 5, dow := t.b2.extractLsb' 5 3
    month := t.b3.extractLsb' 0 4, eti := t.b3.extractLsb' 4 2, pti := t.b3.extractLsb' 6 2
    year := t.b4.extractLsb' 0 7, res2 := t.b4.extractLsb' 7 1 }

/-- A day of month or a month that reads 0 is returned as 1 (43_time_codec.md R184). -/
def substituteZero (f : TimeFields) : TimeFields :=
  { f with
    dom := if f.dom = 0 then 1 else f.dom
    month := if f.month = 0 then 1 else f.month }

/-- `year_full = 2000 + year` (43_time_codec.md R185, 30_encoding.md R90). -/
def yearFull (f : TimeFields) : BitVec 12 := yearBase + f.year.setWidth 12

/-- The 16 bits of seconds and milliseconds (30_encoding.md R86, 43_time_codec.md R189). -/
def packSecMs (o : T7Order) (ms : BitVec 10) (sec : BitVec 6) : BitVec 16 :=
  match o with
  | .secLow => ms ++ sec
  | .msLow => sec ++ ms

/-- Milliseconds of the 16 bits (43_time_codec.md R188). -/
def unpackMs (o : T7Order) (w : BitVec 16) : BitVec 10 :=
  match o with
  | .secLow => w.extractLsb' 6 10
  | .msLow => w.extractLsb' 0 10

/-- Seconds of the 16 bits (43_time_codec.md R188). -/
def unpackSec (o : T7Order) (w : BitVec 16) : BitVec 6 :=
  match o with
  | .secLow => w.extractLsb' 0 6
  | .msLow => w.extractLsb' 10 6

/-- The seven bytes of a long compact time (43_time_codec.md R189). -/
def packTime7 (o : T7Order) (ms : BitVec 10) (sec : BitVec 6) (f : TimeFields) : Bytes7 :=
  { b0 := lo8 (packSecMs o ms sec), b1 := hi8 (packSecMs o ms sec), rest := packTime f }

/-- Five bytes in transmission order (20_memory.md R51). -/
def bytes5List (t : Bytes5) : List Byte := [t.b0, t.b1, t.b2, t.b3, t.b4]

/-- Seven bytes in transmission order (20_memory.md R51). -/
def bytes7List (t : Bytes7) : List Byte := t.b0 :: t.b1 :: bytes5List t.rest

/-- The bytes of a fixed frame around a given checksum byte (30_encoding.md R71). -/
def fixedFrameBytes (x : FixFields) (cs : Byte) : List Byte :=
  [startFixed, packCtrl x.ctrl, lo8 x.addr, hi8 x.addr, cs, endByte]

/-- The first 13 bytes of a variable frame with length byte `l` (30_encoding.md R73). -/
def varHeadBytes (l : Byte) (c : Ctrl) (addr : Address) (tid vsq : Byte) (cot : Cause) (pm : Address) (ra : Byte) :
    List Byte :=
  [startVar, l, l, startVar, packCtrl c, lo8 addr, hi8 addr, tid, vsq, packCause cot, lo8 pm, hi8 pm, ra]

end Sys2Proof.Machine
end

