-- ==== Sys2Proof/WellFormed.lean ====
section
/-! DEFINITION. Well-formed operations. The operand types give every range check but one (00_scope.md R14): a byte
sequence `bytes[0..65535]` holds at most 65535 bytes (30_encoding.md R100; assumption log 11). -/

namespace Sys2Proof

/-- A byte-sequence operand is `bytes[0..65535]`. -/
def seqFits (s : List Byte) : Bool := decide (s.length ≤ maxSeq)

/-- The operand check of each operation (30_encoding.md R100). -/
def Instr.wellFormed : Instr → Bool
  | .sum8 s => seqFits s
  | .ctrlpk _ => true
  | .ctrlup _ => true
  | .cotpk _ => true
  | .cotup _ => true
  | .fixbld _ => true
  | .varbld x => seqFits x.data
  | .feed _ => true
  | .abort => true
  | .parse m => seqFits m
  | .t5enc _ => true
  | .t5dec _ => true
  | .t7enc _ _ _ => true
  | .t7dec _ => true
  | .wrder _ => true
  | .wrpm _ => true
  | .rdreg _ => true
  | .errclr => true
  | .fcbnext => true
  | .linkstat => true
  | .linkrst => true
  | .class2 => true
  | .userdata x => seqFits x.data
  | .reset => true
  | .reserved00 => true
  | .reserved06 => true
  | .reserved07 => true
  | .reserved0A => true
  | .reserved0B => true
  | .reserved0F => true
  | .reserved1D => true
  | .reserved1E => true
  | .wireFixedFrame _ _ => true
  | .wireControlByte _ => true
  | .wireVariableFrameHead _ _ _ _ _ _ _ _ => true
  | .wireCauseByte _ => true
  | .wireTime5 _ => true
  | .wireTime7SecLow _ _ _ => true
  | .wireTime7MsLow _ _ _ => true

/-- The operation's operands lie inside the types of 30_encoding.md R100. -/
abbrev Instr.WellFormed (i : Instr) : Prop := i.wellFormed = true

end Sys2Proof
end

