-- ==== Sys2Proof/Decode.lean ====
section
/-! DEFINITION. The bytes of the host's command port, read and written.

The spec gives each operation a 5-bit code (30_encoding.md R100) and fixes no layout for the operands (R101). DESIGN
CHOICE (assumption log 4): an item on the port is a first byte and then its operands. The first byte's bits 7:5 are 000
for a command, its bits 4:0 then being the code `op`; 001 for a wire item, its bits 4:0 then numbering the wire-format
rows of spec/opcode_table.json from 0. A command's operands stand in the order of R100, each number in the least whole
number of bytes, low byte first, the unused high bits 0; a `bytes[0..65535]` operand is its length in two bytes, low byte
first, and then its bytes. A wire item's bytes are the bytes of its wire format, first byte transmitted first. -/

namespace Sys2Proof

open Machine

/-- Why the port's bytes hold no item. -/
inductive DecodeError where
  /-- The bytes end before the item does. -/
  | truncated
  /-- The first byte's bits 7:5 select neither a command nor a wire item. -/
  | unknownSpace
  /-- A wire item whose number is none of the seven wire formats. -/
  | unknownWireFormat
  /-- An operand byte holds a value outside the operand's type (00_scope.md R14). -/
  | operandOutsideType
  /-- A wire item whose constant bytes are not those of its format (30_encoding.md R71, R73). -/
  | wrongWireMarker
deriving DecidableEq, Repr

/-- A reader of one part of an item: what it read, and the bytes after it. -/
abbrev Reader (α : Type) := List Byte → Except DecodeError (α × List Byte)

/-- A number of at most 8 bits, in one byte. -/
def takeNum8 (w : Nat) : Reader (BitVec w)
  | [] => .error .truncated
  | b :: r => if b.toNat < 2 ^ w then .ok (b.setWidth w, r) else .error .operandOutsideType

/-- A number of 9 to 16 bits, in two bytes, low byte first. -/
def takeNum16 (w : Nat) : Reader (BitVec w)
  | lo :: hi :: r =>
    if (u16le lo hi).toNat < 2 ^ w then .ok ((u16le lo hi).setWidth w, r) else .error .operandOutsideType
  | _ => .error .truncated

/-- Exactly `n` bytes. -/
def takeBytes : Nat → Reader (List Byte)
  | 0, r => .ok ([], r)
  | _ + 1, [] => .error .truncated
  | n + 1, b :: r => do
    let (s, r) ← takeBytes n r
    .ok (b :: s, r)

/-- A byte sequence after its two-byte length. -/
def takeSeq : Reader (List Byte) := fun bs => do
  let (n, r) ← takeNum16 16 bs
  takeBytes n.toNat r

/-- `res, prm, fcb, fcv: bit; fc: u4` (30_encoding.md R100). -/
def takeCtrl : Reader Ctrl := fun bs => do
  let (res, r) ← takeNum8 1 bs
  let (prm, r) ← takeNum8 1 r
  let (fcb, r) ← takeNum8 1 r
  let (fcv, r) ← takeNum8 1 r
  let (fc, r) ← takeNum8 4 r
  .ok ({ res, prm, fcb, fcv, fc }, r)

/-- `t, pn: bit; cause: u6` (30_encoding.md R100). -/
def takeCause : Reader Cause := fun bs => do
  let (t, r) ← takeNum8 1 bs
  let (pn, r) ← takeNum8 1 r
  let (cause, r) ← takeNum8 6 r
  .ok ({ t, pn, cause }, r)

/-- The operands of VARBLD (30_encoding.md R100). -/
def takeVarFields : Reader VarFields := fun bs => do
  let (ctrl, r) ← takeCtrl bs
  let (addr, r) ← takeNum16 16 r
  let (tid, r) ← takeNum8 8 r
  let (vsq, r) ← takeNum8 8 r
  let (cot, r) ← takeCause r
  let (pm, r) ← takeNum16 16 r
  let (ra, r) ← takeNum8 8 r
  let (data, r) ← takeSeq r
  .ok ({ ctrl, addr, tid, vsq, cot, pm, ra, data }, r)

/-- The operands of USERDATA (30_encoding.md R100). -/
def takeUserFields : Reader UserFields := fun bs => do
  let (tid, r) ← takeNum8 8 bs
  let (vsq, r) ← takeNum8 8 r
  let (cot, r) ← takeCause r
  let (ra, r) ← takeNum8 8 r
  let (data, r) ← takeSeq r
  .ok ({ tid, vsq, cot, ra, data }, r)

/-- The 13 time operands in the order of 43_time_codec.md R181. -/
def takeTime : Reader TimeFields := fun bs => do
  let (minute, r) ← takeNum8 6 bs
  let (tis, r) ← takeNum8 1 r
  let (iv, r) ← takeNum8 1 r
  let (hour, r) ← takeNum8 5 r
  let (res1, r) ← takeNum8 2 r
  let (su, r) ← takeNum8 1 r
  let (dom, r) ← takeNum8 5 r
  let (dow, r) ← takeNum8 3 r
  let (month, r) ← takeNum8 4 r
  let (eti, r) ← takeNum8 2 r
  let (pti, r) ← takeNum8 2 r
  let (year, r) ← takeNum8 7 r
  let (res2, r) ← takeNum8 1 r
  .ok ({ minute, tis, iv, hour, res1, su, dom, dow, month, eti, pti, year, res2 }, r)

/-- `bytes[5]`. -/
def takeBytes5 : Reader Bytes5
  | b0 :: b1 :: b2 :: b3 :: b4 :: r => .ok ({ b0, b1, b2, b3, b4 }, r)
  | _ => .error .truncated

/-- `bytes[7]`. -/
def takeBytes7 : Reader Bytes7
  | b0 :: b1 :: r => do
    let (rest, r) ← takeBytes5 r
    .ok ({ b0, b1, rest }, r)
  | _ => .error .truncated

/-- A command by its code (30_encoding.md R100, R102); every value of 5 bits has its row. -/
def decodeCommand (op : Nat) (bs : List Byte) : Except DecodeError (Instr × List Byte) :=
  match op with
  | 0x00 => .ok (.reserved00, bs)
  | 0x01 => do
    let (s, r) ← takeSeq bs
    .ok (.sum8 s, r)
  | 0x02 => do
    let (c, r) ← takeCtrl bs
    .ok (.ctrlpk c, r)
  | 0x03 => do
    let (c, r) ← takeNum8 8 bs
    .ok (.ctrlup c, r)
  | 0x04 => do
    let (c, r) ← takeCause bs
    .ok (.cotpk c, r)
  | 0x05 => do
    let (b, r) ← takeNum8 8 bs
    .ok (.cotup b, r)
  | 0x06 => .ok (.reserved06, bs)
  | 0x07 => .ok (.reserved07, bs)
  | 0x08 => do
    let (ctrl, r) ← takeCtrl bs
    let (addr, r) ← takeNum16 16 r
    .ok (.fixbld { ctrl, addr }, r)
  | 0x09 => do
    let (x, r) ← takeVarFields bs
    .ok (.varbld x, r)
  | 0x0A => .ok (.reserved0A, bs)
  | 0x0B => .ok (.reserved0B, bs)
  | 0x0C => do
    let (b, r) ← takeNum8 8 bs
    .ok (.feed b, r)
  | 0x0D => .ok (.abort, bs)
  | 0x0E => do
    let (s, r) ← takeSeq bs
    .ok (.parse s, r)
  | 0x0F => .ok (.reserved0F, bs)
  | 0x10 => do
    let (f, r) ← takeTime bs
    .ok (.t5enc f, r)
  | 0x11 => do
    let (t, r) ← takeBytes5 bs
    .ok (.t5dec t, r)
  | 0x12 => do
    let (ms, r) ← takeNum16 10 bs
    let (sec, r) ← takeNum8 6 r
    let (f, r) ← takeTime r
    .ok (.t7enc ms sec f, r)
  | 0x13 => do
    let (t, r) ← takeBytes7 bs
    .ok (.t7dec t, r)
  | 0x14 => do
    let (v, r) ← takeNum16 16 bs
    .ok (.wrder v, r)
  | 0x15 => do
    let (v, r) ← takeNum16 16 bs
    .ok (.wrpm v, r)
  | 0x16 => do
    let (k, r) ← takeNum8 3 bs
    .ok (.rdreg k, r)
  | 0x17 => .ok (.errclr, bs)
  | 0x18 => .ok (.fcbnext, bs)
  | 0x19 => .ok (.linkstat, bs)
  | 0x1A => .ok (.linkrst, bs)
  | 0x1B => .ok (.class2, bs)
  | 0x1C => do
    let (x, r) ← takeUserFields bs
    .ok (.userdata x, r)
  | 0x1D => .ok (.reserved1D, bs)
  | 0x1E => .ok (.reserved1E, bs)
  | 0x1F => .ok (.reset, bs)
  | _ => .error .unknownSpace

/-- A received fixed frame by the pattern of 30_encoding.md R71. -/
def takeWireFixed : Reader (FixFields × Byte)
  | m :: c :: lo :: hi :: cs :: e :: r =>
    if m = startFixed ∧ e = endByte then .ok (({ ctrl := unpackCtrl c, addr := u16le lo hi }, cs), r)
    else .error .wrongWireMarker
  | _ => .error .truncated

/-- The head of a received variable frame by the pattern of 30_encoding.md R73. -/
def decodeWireVar : List Byte → Except DecodeError (Instr × List Byte)
  | m :: l :: l' :: m' :: c :: alo :: ahi :: tid :: vsq :: cot :: plo :: phi :: ra :: r =>
    if m = startVar ∧ m' = startVar ∧ l' = l then
      .ok (.wireVariableFrameHead l (unpackCtrl c) (u16le alo ahi) tid vsq (unpackCause cot) (u16le plo phi) ra, r)
    else .error .wrongWireMarker
  | _ => .error .truncated

/-- A wire item by the number of its row among the wire-format rows of spec/opcode_table.json (assumption log 4, 5). -/
def decodeWire (format : Nat) (bs : List Byte) : Except DecodeError (Instr × List Byte) :=
  match format with
  | 0 => do
    let (x, r) ← takeWireFixed bs
    .ok (.wireFixedFrame x.1 x.2, r)
  | 1 => do
    let (c, r) ← takeNum8 8 bs
    .ok (.wireControlByte (unpackCtrl c), r)
  | 2 => decodeWireVar bs
  | 3 => do
    let (b, r) ← takeNum8 8 bs
    .ok (.wireCauseByte (unpackCause b), r)
  | 4 => do
    let (t, r) ← takeBytes5 bs
    .ok (.wireTime5 (unpackTime t), r)
  | 5 => do
    let (t, r) ← takeBytes7 bs
    .ok (.wireTime7SecLow (unpackMs .secLow (u16le t.b0 t.b1)) (unpackSec .secLow (u16le t.b0 t.b1)) (unpackTime t.rest), r)
  | 6 => do
    let (t, r) ← takeBytes7 bs
    .ok (.wireTime7MsLow (unpackMs .msLow (u16le t.b0 t.b1)) (unpackSec .msLow (u16le t.b0 t.b1)) (unpackTime t.rest), r)
  | _ => .error .unknownWireFormat

/-- The first item on the port and the bytes after it. Total: every byte sequence is read or rejected by name. -/
def decode : List Byte → Except DecodeError (Instr × List Byte)
  | [] => .error .truncated
  | b :: bs =>
    if b.toNat < 32 then decodeCommand b.toNat bs
    else if b.toNat < 64 then decodeWire (b.toNat - 32) bs
    else .error .unknownSpace

/-! ### The encoder -/

/-- A number of at most 8 bits in one byte. -/
def putNum8 {w : Nat} (v : BitVec w) : List Byte := [v.setWidth 8]

/-- A number of 9 to 16 bits in two bytes, low byte first. -/
def putNum16 {w : Nat} (v : BitVec w) : List Byte := [lo8 (v.setWidth 16), hi8 (v.setWidth 16)]

/-- A byte sequence after its two-byte length. -/
def putSeq (s : List Byte) : List Byte := putNum16 (BitVec.ofNat 16 s.length) ++ s

/-- The control-byte operands, one byte each. -/
def putCtrl (c : Ctrl) : List Byte := putNum8 c.res ++ putNum8 c.prm ++ putNum8 c.fcb ++ putNum8 c.fcv ++ putNum8 c.fc

/-- The cause-byte operands, one byte each. -/
def putCause (c : Cause) : List Byte := putNum8 c.t ++ putNum8 c.pn ++ putNum8 c.cause

/-- The time operands, one byte each. -/
def putTime (f : TimeFields) : List Byte :=
  putNum8 f.minute ++ putNum8 f.tis ++ putNum8 f.iv ++ putNum8 f.hour ++ putNum8 f.res1 ++ putNum8 f.su ++ putNum8 f.dom ++
    putNum8 f.dow ++ putNum8 f.month ++ putNum8 f.eti ++ putNum8 f.pti ++ putNum8 f.year ++ putNum8 f.res2

/-- The operands of VARBLD. -/
def putVarFields (x : VarFields) : List Byte :=
  putCtrl x.ctrl ++ putNum16 x.addr ++ putNum8 x.tid ++ putNum8 x.vsq ++ putCause x.cot ++ putNum16 x.pm ++ putNum8 x.ra ++
    putSeq x.data

/-- The operands of USERDATA. -/
def putUserFields (x : UserFields) : List Byte :=
  putNum8 x.tid ++ putNum8 x.vsq ++ putCause x.cot ++ putNum8 x.ra ++ putSeq x.data

/-- The first byte of an item: the command code of 30_encoding.md R100 and R102, or 0x20 and the wire format's number. -/
def opByte : Instr → Byte
  | .sum8 _ => 0x01
  | .ctrlpk _ => 0x02
  | .ctrlup _ => 0x03
  | .cotpk _ => 0x04
  | .cotup _ => 0x05
  | .fixbld _ => 0x08
  | .varbld _ => 0x09
  | .feed _ => 0x0C
  | .abort => 0x0D
  | .parse _ => 0x0E
  | .t5enc _ => 0x10
  | .t5dec _ => 0x11
  | .t7enc _ _ _ => 0x12
  | .t7dec _ => 0x13
  | .wrder _ => 0x14
  | .wrpm _ => 0x15
  | .rdreg _ => 0x16
  | .errclr => 0x17
  | .fcbnext => 0x18
  | .linkstat => 0x19
  | .linkrst => 0x1A
  | .class2 => 0x1B
  | .userdata _ => 0x1C
  | .reset => 0x1F
  | .reserved00 => 0x00
  | .reserved06 => 0x06
  | .reserved07 => 0x07
  | .reserved0A => 0x0A
  | .reserved0B => 0x0B
  | .reserved0F => 0x0F
  | .reserved1D => 0x1D
  | .reserved1E => 0x1E
  | .wireFixedFrame _ _ => 0x20
  | .wireControlByte _ => 0x21
  | .wireVariableFrameHead _ _ _ _ _ _ _ _ => 0x22
  | .wireCauseByte _ => 0x23
  | .wireTime5 _ => 0x24
  | .wireTime7SecLow _ _ _ => 0x25
  | .wireTime7MsLow _ _ _ => 0x26

/-- The operand bytes of an item. -/
def operandBytes : Instr → List Byte
  | .sum8 s => putSeq s
  | .ctrlpk c => putCtrl c
  | .ctrlup c => putNum8 c
  | .cotpk c => putCause c
  | .cotup b => putNum8 b
  | .fixbld x => putCtrl x.ctrl ++ putNum16 x.addr
  | .varbld x => putVarFields x
  | .feed b => putNum8 b
  | .abort => []
  | .parse m => putSeq m
  | .t5enc f => putTime f
  | .t5dec t => bytes5List t
  | .t7enc ms sec f => putNum16 ms ++ putNum8 sec ++ putTime f
  | .t7dec t => bytes7List t
  | .wrder v => putNum16 v
  | .wrpm v => putNum16 v
  | .rdreg k => putNum8 k
  | .errclr => []
  | .fcbnext => []
  | .linkstat => []
  | .linkrst => []
  | .class2 => []
  | .userdata x => putUserFields x
  | .reset => []
  | .reserved00 => []
  | .reserved06 => []
  | .reserved07 => []
  | .reserved0A => []
  | .reserved0B => []
  | .reserved0F => []
  | .reserved1D => []
  | .reserved1E => []
  | .wireFixedFrame x cs => fixedFrameBytes x cs
  | .wireControlByte c => [packCtrl c]
  | .wireVariableFrameHead l c addr tid vsq cot pm ra => varHeadBytes l c addr tid vsq cot pm ra
  | .wireCauseByte c => [packCause c]
  | .wireTime5 f => bytes5List (packTime f)
  | .wireTime7SecLow ms sec f => bytes7List (packTime7 .secLow ms sec f)
  | .wireTime7MsLow ms sec f => bytes7List (packTime7 .msLow ms sec f)

/-- The bytes of a well-formed item. -/
def encode (i : Instr) : List Byte := opByte i :: operandBytes i

/-! ### The words of spec/opcode_table.json -/

/-- The `n` low bytes of `w`, the least significant first. -/
def lowBytes : Nat → Nat → List Byte
  | 0, _ => []
  | n + 1, w => BitVec.ofNat 8 w :: lowBytes n (w / 256)

/-- The port's bytes for a word of the opcode table. The table's command rows are 5 bits wide and its wire rows 8, 40,
48, 56 or 104 bits wide, so the width tells a command from a wire item, except at 8 bits, where a word below 32 is a
command code and any other is read as a control byte; a 56-bit word is read in the default order SEC_LOW
(assumption log 4). The bits above `nbits` are 0: 32 zero bytes follow, more than the longest item whose length
operands are 0. -/
def tableWordBytes (nbits w : Nat) : List Byte :=
  let item :=
    if nbits ≤ 8 then (if w < 32 then [BitVec.ofNat 8 w] else [0x21, BitVec.ofNat 8 w])
    else if nbits = 40 then 0x24 :: lowBytes 5 w
    else if nbits = 48 then 0x20 :: lowBytes 6 w
    else if nbits = 56 then 0x25 :: lowBytes 7 w
    else if nbits = 104 then 0x22 :: lowBytes 13 w
    else lowBytes (nbits / 8) w
  item ++ List.replicate 32 0

/-- The instruction the decoder reads from a word of the opcode table. -/
def decodeTableWord (nbits w : Nat) : Option Instr :=
  match decode (tableWordBytes nbits w) with
  | .ok (i, _) => some i
  | .error _ => none

end Sys2Proof
end

