-- ==== Sys2Proof/Machine/State.lean ====
section
/-! DEFINITION. The state of the block (10_state.md R20 to R40), the results of operations (00_scope.md R12), and the
ways a step can stop. -/

namespace Sys2Proof.Machine

/-- The five errors (60_exceptions.md R240). -/
inductive FrameError where
  | badStartByte
  | lengthMismatch
  | checksumMismatch
  | wrongEndByte
  | buildOverflow
deriving DecidableEq, Repr

/-- The arguments of `raise E(pos, got, exp)` (00_scope.md R12). -/
structure Raise where
  error : FrameError
  pos   : BitVec 9
  got   : Byte
  exp   : Byte
deriving DecidableEq, Repr

/-- The values operations return (the result column of 30_encoding.md R100). -/
inductive Value where
  /-- SUM8, CTRLPK, COTPK. -/
  | byte (b : Byte)
  /-- FCBNEXT. -/
  | bit (b : Bit)
  /-- RDREG. -/
  | word (w : BitVec 32)
  /-- The builders and the time encoders: bytes in transmission order (20_memory.md R51). -/
  | bytes (s : List Byte)
  /-- CTRLUP. -/
  | ctrl (c : Ctrl)
  /-- COTUP. -/
  | cause (c : Cause)
  /-- `Fixed{...}` (42_frame_parser.md R159). -/
  | fixFrame (x : FixFields)
  /-- `Var{...}` (42_frame_parser.md R160). -/
  | varFrame (x : VarFields)
  /-- `T5{...}` (43_time_codec.md R182). -/
  | time5 (f : TimeFields) (yearFull : BitVec 12)
  /-- `T7{...}` (43_time_codec.md R188). -/
  | time7 (ms : BitVec 10) (sec : BitVec 6) (f : TimeFields) (yearFull : BitVec 12)
deriving DecidableEq, Repr

/-- "An operation's result is exactly one of `None`, a value, or `Error(E)`" (00_scope.md R12). -/
inductive Result where
  | none
  | value (v : Value)
  | error (e : FrameError)
deriving DecidableEq, Repr

/-- What the last item issued handed back to the host. The spec keeps no results (10_state.md R20); the model holds the
last one so that a step's result can be read (assumption log 6). -/
inductive Response where
  /-- Nothing has been issued since power-on. -/
  | silent
  /-- The result of one operation. -/
  | result (r : Result)
  /-- The results of the FEED operations of one received chunk, in order (20_memory.md R50). -/
  | results (rs : List Result)
  /-- The command port refused a reserved code: no result (30_encoding.md R102). -/
  | refused
deriving DecidableEq, Repr

/-- The four fields of ERR (10_state.md R33). The reserved bits 6:3 read as 0 and hold nothing. -/
structure ErrRecord where
  code : BitVec 3
  pos  : BitVec 9
  got  : Byte
  exp  : Byte
deriving DecidableEq, Repr

/-- Why a step stops with a fault. -/
inductive Fault where
  /-- FEED would write PRS.BUF at an index of 261 or more, an address 20_memory.md R52 says does not exist. Raised by
  FEED and by the received frames, and only in states outside the invariant of 10_state.md R39 (`CNT <= 260`), which no
  run from reset reaches (assumption log 9). Safe. -/
  | bufferIndex (index : Nat)
deriving DecidableEq, Repr

/-- Why a step is refused. -/
inductive Refusal where
  /-- `exec` has no meaning for the instruction. Raised by no arm of `exec`. Safe. -/
  | notModelled (mnemonic : String)
  /-- The port's bytes hold no item of the model's port layout (assumption log 4). Raised by `step` alone. Safe. -/
  | undecodable (reason : DecodeError)
deriving DecidableEq, Repr

/-- The state of the block. `cfg`, `port` and `response` are the model's own (assumption log 1, 3, 6). -/
structure State where
  /-- The open parameters of 00_scope.md R8, which no operation changes (70_reset_and_hazards.md R271). -/
  cfg : Config
  /-- PRS.BUF (10_state.md R21): the cells that do not hold 0, by rising index. -/
  buf : List Host.Cell
  /-- PRS.CNT (10_state.md R22). -/
  cnt : BitVec 9
  /-- PRS.TOT (10_state.md R23). -/
  tot : BitVec 9
  /-- SEQ.FCB (10_state.md R26). -/
  fcb : Bit
  /-- SEQ.DER (10_state.md R27). -/
  der : Address
  /-- SEQ.DIRPM (10_state.md R28). -/
  dirpm : Address
  /-- ERR (10_state.md R33). -/
  err : ErrRecord
  /-- STATUS.E_BSB, bit 8 (10_state.md R30, R31). -/
  eBsb : Bit
  /-- STATUS.E_LEN, bit 9. -/
  eLen : Bit
  /-- STATUS.E_CHK, bit 10. -/
  eChk : Bit
  /-- STATUS.E_END, bit 11. -/
  eEnd : Bit
  /-- STATUS.E_BLD, bit 12. -/
  eBld : Bit
  /-- The bytes the host has put on the command port and the block has not taken (assumption log 3, 4). -/
  port : List Byte
  /-- What the last item handed back (assumption log 6). -/
  response : Response
deriving DecidableEq, Repr

/-- ERR with no error recorded (10_state.md R33: "Reset value: all 0"). -/
def ErrRecord.clear : ErrRecord := { code := 0, pos := 0, got := 0, exp := 0 }

/-- The block after power-on under the parameters `c`; power-on has the same effect as RESET
(70_reset_and_hazards.md R270, 10_state.md R40). PRS.BUF is unspecified there; the model starts it at zeros
(assumption log 7). -/
def State.powerOn (c : Config) : State :=
  { cfg := c
    buf := []
    cnt := 0
    tot := 0
    fcb := c.fcbReset
    der := 0
    dirpm := 0
    err := ErrRecord.clear
    eBsb := 0
    eLen := 0
    eChk := 0
    eEnd := 0
    eBld := 0
    port := []
    response := .silent }

/-- The block after power-on under the default parameters (10_state.md R40, 00_scope.md R8; assumption log 2). -/
def State.reset : State := State.powerOn Config.standard

end Sys2Proof.Machine
end

