-- ==== Sys2Proof/Machine/Ops.lean ====
section
/-! DEFINITION. The named operations over the parser buffer and the registers, and the error entry. -/

namespace Sys2Proof.Machine

/-! ### PRS.BUF: the only memory (20_memory.md R52)

A list of (index, byte) in one canonical form: indexes strictly rising and below 261, no entry equal to what an unlisted
index reads as. -/

/-- What an unlisted index reads as (assumption log 7). -/
def Memory.blank : Byte := 0

/-- `BUF[i]` (00_scope.md R11). -/
def Memory.read : List Host.Cell → Nat → Byte
  | [], _ => Memory.blank
  | (k, v) :: m, i => if k = i then v else Memory.read m i

/-- The list with index `i` holding `v`. -/
def Memory.put : List Host.Cell → Nat → Byte → List Host.Cell
  | [], i, v => [(i, v)]
  | (k, w) :: m, i, v =>
    if i < k then (i, v) :: (k, w) :: m
    else if i = k then (i, v) :: m
    else (k, w) :: Memory.put m i v

/-- The list without index `i`. -/
def Memory.erase : List Host.Cell → Nat → List Host.Cell
  | [], _ => []
  | (k, w) :: m, i => if k = i then Memory.erase m i else (k, w) :: Memory.erase m i

/-- `BUF[i] <- v` (00_scope.md R11). -/
def Memory.write (m : List Host.Cell) (i : Nat) (v : Byte) : List Host.Cell :=
  if v = Memory.blank then Memory.erase m i else Memory.put m i v

/-- The canonical form from index `lo` on. -/
def Memory.risingFrom : Nat → List Host.Cell → Bool
  | _, [] => true
  | lo, (k, v) :: m => decide (lo ≤ k) && decide (k < bufSize) && decide (v ≠ Memory.blank) && Memory.risingFrom (k + 1) m

/-- The canonical form. -/
def Memory.wf (m : List Host.Cell) : Bool := Memory.risingFrom 0 m

/-- `BUF[i .. i+n-1]`. -/
def Memory.slice (m : List Host.Cell) (i : Nat) : Nat → List Byte
  | 0 => []
  | n + 1 => Memory.read m i :: Memory.slice m (i + 1) n

/-! ### The host's side -/

/-- The item ends and hands `r` to the host (00_scope.md R12). -/
def State.respond (s : State) (r : Response) : State := { s with response := r }

/-- The operation ends with the one result `r`. -/
def State.answer (s : State) (r : Result) : State := s.respond (.result r)

/-- The operation ends with the value `v`. -/
def State.giveValue (s : State) (v : Value) : State := s.answer (.value v)

/-! ### Registers -/

/-- `CNT <- 0; TOT <- 0`: the parser is idle (42_frame_parser.md R162). -/
def State.idle (s : State) : State := { s with cnt := 0, tot := 0 }

/-- `SEQ.FCB <- SEQ.FCB xor 1` (44_sequencer.md R211). -/
def State.toggleFcb (s : State) : State := { s with fcb := s.fcb ^^^ 1 }

/-- ERR and the five sticky flags to 0 (44_sequencer.md R223). -/
def State.clearErrors (s : State) : State :=
  { s with err := ErrRecord.clear, eBsb := 0, eLen := 0, eChk := 0, eEnd := 0, eBld := 0 }

/-! ### The error entry -/

/-- ERR.CODE of each error (60_exceptions.md R240). -/
def FrameError.code : FrameError → BitVec 3
  | .badStartByte => 1
  | .lengthMismatch => 2
  | .checksumMismatch => 3
  | .wrongEndByte => 4
  | .buildOverflow => 5

/-- `STATUS.<flag of E> <- 1` (60_exceptions.md R240, R248). -/
def State.setSticky (s : State) : FrameError → State
  | .badStartByte => { s with eBsb := 1 }
  | .lengthMismatch => { s with eLen := 1 }
  | .checksumMismatch => { s with eChk := 1 }
  | .wrongEndByte => { s with eEnd := 1 }
  | .buildOverflow => { s with eBld := 1 }

/-- The error entry: all four fields of ERR and the sticky flag of the error, nothing else (60_exceptions.md R248).
There is no return from it: the next operation runs normally (R251). -/
def State.errorEntry (s : State) (r : Raise) : State :=
  { s with err := { code := r.error.code, pos := r.pos, got := r.got, exp := r.exp } }.setSticky r.error

/-- `raise E(pos, got, exp)`: the error entry, and the result `Error(E)` (00_scope.md R12). -/
def State.raise (s : State) (r : Raise) : State × Result := (s.errorEntry r, .error r.error)

/-- An operation that judged its operands ends with the value or with the error raised. -/
def State.conclude (s : State) : Except Raise Value → State × Result
  | .ok v => (s, .value v)
  | .error r => s.raise r

/-- The state after an operation that ended with a state and a result. -/
def finish (p : State × Result) : State := p.1.answer p.2

end Sys2Proof.Machine
end

