-- ==== Sys2Proof/Machine/Frame.lean ====
section
/-! DEFINITION. Building a frame and judging a complete one: pure functions of bytes, shared by FIXBLD, VARBLD, the
sequencer's requests, FEED and PARSE. -/

namespace Sys2Proof.Machine

/-- The fixed frame of FIXBLD (41_frame_builder.md R130). -/
def buildFixed (x : FixFields) : List Byte :=
  fixedFrameBytes x (sum8 [packCtrl x.ctrl, lo8 x.addr, hi8 x.addr])

/-- The nine bytes that precede the data in the summed range (41_frame_builder.md R133). -/
def varHeader (x : VarFields) : List Byte :=
  [packCtrl x.ctrl, lo8 x.addr, hi8 x.addr, x.tid, x.vsq, packCause x.cot, lo8 x.pm, hi8 x.pm, x.ra]

/-- The low 8 bits of the declared length `9 + n` (41_frame_builder.md R133, R138). -/
def declaredLength (data : List Byte) : Byte := BitVec.ofNat 8 (hdrOverhead + data.length)

/-- BuildOverflow for data that cannot be framed (41_frame_builder.md R138). -/
def overflow (data : List Byte) : Raise :=
  { error := .buildOverflow, pos := 1, got := declaredLength data, exp := 0 }

/-- The variable frame of VARBLD when the data fit (41_frame_builder.md R133). -/
def varFrameBytes (x : VarFields) : List Byte :=
  let body := varHeader x ++ x.data
  [startVar, declaredLength x.data, declaredLength x.data, startVar] ++ body ++ [sum8 body, endByte]

/-- VARBLD's frame, or BuildOverflow above 246 data bytes (41_frame_builder.md R133). -/
def buildVar (x : VarFields) : Except Raise Value :=
  if x.data.length > maxData then .error (overflow x.data) else .ok (.bytes (varFrameBytes x))

/-- The byte of a frame at an offset. -/
def byteAt (f : List Byte) (i : Nat) : Byte := f.getD i 0

/-- FixedValue (42_frame_parser.md R159). -/
def fixedValue (f : List Byte) : FixFields :=
  { ctrl := unpackCtrl (byteAt f 1), addr := u16le (byteAt f 2) (byteAt f 3) }

/-- VarValue for the length `l` (42_frame_parser.md R160). -/
def varValue (f : List Byte) (l : Nat) : VarFields :=
  { ctrl := unpackCtrl (byteAt f 4), addr := u16le (byteAt f 5) (byteAt f 6), tid := byteAt f 7, vsq := byteAt f 8,
    cot := unpackCause (byteAt f 9), pm := u16le (byteAt f 10) (byteAt f 11), ra := byteAt f 12,
    data := (f.drop 13).take (l - hdrOverhead) }

/-- A frame offset as ERR.POS holds it (10_state.md R33). -/
def posOf (i : Nat) : BitVec 9 := BitVec.ofNat 9 i

/-- CompleteFixed (42_frame_parser.md R154). -/
def judgeFixed (f : List Byte) : Except Raise Value :=
  let sum := sum8 [byteAt f 1, byteAt f 2, byteAt f 3]
  if byteAt f 4 ≠ sum then .error ⟨.checksumMismatch, 4, byteAt f 4, sum⟩
  else if byteAt f 5 ≠ endByte then .error ⟨.wrongEndByte, 5, byteAt f 5, endByte⟩
  else .ok (.fixFrame (fixedValue f))

/-- CompleteVar, in the order of the offsets (42_frame_parser.md R155, R156). -/
def judgeVar (f : List Byte) : Except Raise Value :=
  let l := (byteAt f 1).toNat
  let sum := sum8 ((f.drop 4).take l)
  if l < hdrOverhead then .error ⟨.lengthMismatch, 1, byteAt f 1, 9⟩
  else if byteAt f 2 ≠ byteAt f 1 then .error ⟨.lengthMismatch, 2, byteAt f 2, byteAt f 1⟩
  else if byteAt f 3 ≠ startVar then .error ⟨.badStartByte, 3, byteAt f 3, startVar⟩
  else if byteAt f (l + 4) ≠ sum then .error ⟨.checksumMismatch, posOf (l + 4), byteAt f (l + 4), sum⟩
  else if byteAt f (l + 5) ≠ endByte then .error ⟨.wrongEndByte, posOf (l + 5), byteAt f (l + 5), endByte⟩
  else .ok (.varFrame (varValue f l))

/-- PARSE's judgement of a whole sequence: the five checks of its length, then the frame's (42_frame_parser.md R165). -/
def judgeSeq (f : List Byte) : Except Raise Value :=
  let m := f.length
  if m = 0 then .error ⟨.lengthMismatch, 0, 0, 0⟩
  else if byteAt f 0 ≠ startFixed ∧ byteAt f 0 ≠ startVar then .error ⟨.badStartByte, 0, byteAt f 0, 0⟩
  else if byteAt f 0 = startFixed then
    if m ≠ fixedLen then .error ⟨.lengthMismatch, 0, byteAt f 0, 0⟩ else judgeFixed f
  else if m < 2 then .error ⟨.lengthMismatch, 1, 0, 0⟩
  else if m ≠ (byteAt f 1).toNat + varExtra then .error ⟨.lengthMismatch, 1, byteAt f 1, 0⟩
  else judgeVar f

end Sys2Proof.Machine
end

