-- ==== Sys2Proof/Machine/Builder.lean ====
section
/-! DEFINITION. FIXBLD and VARBLD (41_frame_builder.md). -/

namespace Sys2Proof.Machine

/-- FIXBLD (41_frame_builder.md R130). -/
def execFixbld (x : FixFields) (s : State) : Host.Outcome State Fault Refusal :=
  .next (s.giveValue (.bytes (buildFixed x)))

/-- VARBLD (41_frame_builder.md R132, R133, R138). -/
def execVarbld (x : VarFields) (s : State) : Host.Outcome State Fault Refusal :=
  .next (finish (s.conclude (buildVar x)))

end Sys2Proof.Machine
end

