-- ==== Sys2Proof/Machine/Checksum.lean ====
section
/-! DEFINITION. SUM8, CTRLPK, CTRLUP, COTPK, COTUP (40_checksum_and_byte_fields.md). -/

namespace Sys2Proof.Machine

/-- SUM8 (40_checksum_and_byte_fields.md R110). -/
def execSum8 (b : List Byte) (s : State) : Host.Outcome State Fault Refusal :=
  .next (s.giveValue (.byte (sum8 b)))

/-- CTRLPK (40_checksum_and_byte_fields.md R113). -/
def execCtrlpk (c : Ctrl) (s : State) : Host.Outcome State Fault Refusal :=
  .next (s.giveValue (.byte (packCtrl c)))

/-- CTRLUP (40_checksum_and_byte_fields.md R114). -/
def execCtrlup (c : Byte) (s : State) : Host.Outcome State Fault Refusal :=
  .next (s.giveValue (.ctrl (unpackCtrl c)))

/-- COTPK (40_checksum_and_byte_fields.md R115). -/
def execCotpk (c : Cause) (s : State) : Host.Outcome State Fault Refusal :=
  .next (s.giveValue (.byte (packCause c)))

/-- COTUP (40_checksum_and_byte_fields.md R116). -/
def execCotup (b : Byte) (s : State) : Host.Outcome State Fault Refusal :=
  .next (s.giveValue (.cause (unpackCause b)))

end Sys2Proof.Machine
end

