-- ==== Sys2Proof/Machine/Control.lean ====
section
/-! DEFINITION. RESET (70_reset_and_hazards.md R270) and the reserved command codes (30_encoding.md R102). -/

namespace Sys2Proof.Machine

/-- The registers as RESET leaves them; PRS.BUF keeps what it held (70_reset_and_hazards.md R270). -/
def State.resetRegisters (s : State) : State :=
  { s.idle.clearErrors with fcb := s.cfg.fcbReset, der := 0, dirpm := 0 }

/-- RESET (70_reset_and_hazards.md R270). -/
def execReset (s : State) : Host.Outcome State Fault Refusal :=
  .next (s.resetRegisters.answer .none)

/-- A reserved code: "the command port refuses it, no state changes and no result is produced" (30_encoding.md R102).
The block goes on, so this is a next state (assumption log 8). -/
def State.refuseCode (s : State) : State := s.respond .refused

/-- Code 0x00 (30_encoding.md R102). -/
def execReserved00 (s : State) : Host.Outcome State Fault Refusal := .next s.refuseCode

/-- Code 0x06 (30_encoding.md R102). -/
def execReserved06 (s : State) : Host.Outcome State Fault Refusal := .next s.refuseCode

/-- Code 0x07 (30_encoding.md R102). -/
def execReserved07 (s : State) : Host.Outcome State Fault Refusal := .next s.refuseCode

/-- Code 0x0A (30_encoding.md R102). -/
def execReserved0A (s : State) : Host.Outcome State Fault Refusal := .next s.refuseCode

/-- Code 0x0B (30_encoding.md R102). -/
def execReserved0B (s : State) : Host.Outcome State Fault Refusal := .next s.refuseCode

/-- Code 0x0F (30_encoding.md R102). -/
def execReserved0F (s : State) : Host.Outcome State Fault Refusal := .next s.refuseCode

/-- Code 0x1D (30_encoding.md R102). -/
def execReserved1D (s : State) : Host.Outcome State Fault Refusal := .next s.refuseCode

/-- Code 0x1E (30_encoding.md R102). -/
def execReserved1E (s : State) : Host.Outcome State Fault Refusal := .next s.refuseCode

end Sys2Proof.Machine
end

