-- ==== Sys2Proof/Machine/Flags.lean ====
section
/-! DEFINITION. STATUS and ERR as RDREG reads them. -/

namespace Sys2Proof.Machine

/-- STATUS.BUSY (10_state.md R30). -/
def State.busy (s : State) : Bit := if s.cnt ≠ 0 then 1 else 0

/-- STATUS.KIND (10_state.md R30). -/
def State.kind (s : State) : Bit := if s.cnt ≠ 0 ∧ Memory.read s.buf 0 = startVar then 1 else 0

/-- STATUS.LENKNOWN (10_state.md R30). -/
def State.lenKnown (s : State) : Bit := if s.tot ≠ 0 then 1 else 0

/-- STATUS, assembled at the time of the read: E_BLD to E_BSB in bits 12:8, the live fields in bits 3:0, the reserved
bits 15:13 and 7:4 zero (10_state.md R30). -/
def State.status (s : State) : BitVec 16 :=
  0#3 ++ s.eBld ++ s.eEnd ++ s.eChk ++ s.eLen ++ s.eBsb ++ 0#4 ++ s.fcb ++ s.lenKnown ++ s.kind ++ s.busy

/-- ERR: EXP 31:24, GOT 23:16, POS 15:7, bits 6:3 zero, CODE 2:0 (10_state.md R33). -/
def ErrRecord.word (e : ErrRecord) : BitVec 32 := e.exp ++ e.got ++ e.pos ++ 0#4 ++ e.code

/-- `REG[k]` (10_state.md R36, 44_sequencer.md R222). -/
def State.readReg (s : State) (k : BitVec 3) : BitVec 32 :=
  match k.toNat with
  | 0 => s.status.setWidth 32
  | 1 => s.err.word
  | 2 => s.der.setWidth 32
  | 3 => s.dirpm.setWidth 32
  | 4 => s.cnt.setWidth 32
  | 5 => s.tot.setWidth 32
  | _ => 0

end Sys2Proof.Machine
end

