-- ==== Sys2Proof/Machine/Sequencer.lean ====
section
/-! DEFINITION. The control-bit sequencer and register access (44_sequencer.md). -/

namespace Sys2Proof.Machine

/-- The control byte of a link-establishment request: PRM 1, no frame-count bit (44_sequencer.md R213 to R215). -/
def linkCtrl (fc : BitVec 4) : Ctrl := { res := 0, prm := 1, fcb := 0, fcv := 0, fc }

/-- The control byte of a request that carries the frame-count bit (44_sequencer.md R215 to R217). -/
def countedCtrl (fcb : Bit) (fc : BitVec 4) : Ctrl := { res := 0, prm := 1, fcb, fcv := 1, fc }

/-- The VARBLD operands of USERDATA, with the frame-count bit as it stands (44_sequencer.md R217). -/
def userFrame (x : UserFields) (s : State) : VarFields :=
  { ctrl := countedCtrl s.fcb s.cfg.fcUserData, addr := s.der, tid := x.tid, vsq := x.vsq, cot := x.cot, pm := s.dirpm,
    ra := x.ra, data := x.data }

/-- FCBNEXT (44_sequencer.md R211). -/
def execFcbnext (s : State) : Host.Outcome State Fault Refusal :=
  .next (s.toggleFcb.giveValue (.bit s.toggleFcb.fcb))

/-- LINKSTAT (44_sequencer.md R213). -/
def execLinkstat (s : State) : Host.Outcome State Fault Refusal :=
  .next (s.giveValue (.bytes (buildFixed { ctrl := linkCtrl fcLinkStatus, addr := s.der })))

/-- LINKRST (44_sequencer.md R214). -/
def execLinkrst (s : State) : Host.Outcome State Fault Refusal :=
  .next (s.giveValue (.bytes (buildFixed { ctrl := linkCtrl s.cfg.fcResetLink, addr := s.der })))

/-- CLASS2 (44_sequencer.md R216). -/
def execClass2 (s : State) : Host.Outcome State Fault Refusal :=
  let s := s.toggleFcb
  .next (s.giveValue (.bytes (buildFixed { ctrl := countedCtrl s.fcb s.cfg.fcReqClass2, addr := s.der })))

/-- USERDATA: the length check comes before the frame-count bit is touched (44_sequencer.md R217). -/
def execUserdata (x : UserFields) (s : State) : Host.Outcome State Fault Refusal :=
  if x.data.length > maxData then .next (finish (s.raise (overflow x.data)))
  else .next (finish (s.toggleFcb.conclude (buildVar (userFrame x s.toggleFcb))))

/-- WRDER (44_sequencer.md R219). -/
def execWrder (v : Address) (s : State) : Host.Outcome State Fault Refusal :=
  .next ({ s with der := v }.answer .none)

/-- WRPM (44_sequencer.md R220). -/
def execWrpm (v : Address) (s : State) : Host.Outcome State Fault Refusal :=
  .next ({ s with dirpm := v }.answer .none)

/-- RDREG (44_sequencer.md R222). -/
def execRdreg (k : BitVec 3) (s : State) : Host.Outcome State Fault Refusal :=
  .next (s.giveValue (.word (s.readReg k)))

/-- ERRCLR (44_sequencer.md R223). -/
def execErrclr (s : State) : Host.Outcome State Fault Refusal :=
  .next (s.clearErrors.answer .none)

end Sys2Proof.Machine
end

