-- ==== Sys2Proof/Machine/Parser.lean ====
section
/-! DEFINITION. FEED, ABORT, PARSE (42_frame_parser.md), and FEED of several bytes in order. -/

namespace Sys2Proof.Machine

/-- FEED in the idle state: the first byte of a frame (42_frame_parser.md R152, R153). -/
def feedIdle (b : Byte) (s : State) : State × Result :=
  if b = startFixed then ({ s with buf := Memory.write s.buf 0 b, cnt := 1, tot := 6 }, .none)
  else if b = startVar then ({ s with buf := Memory.write s.buf 0 b, cnt := 1, tot := 0 }, .none)
  else s.raise ⟨.badStartByte, 0, b, 0⟩

/-- The verdict on the frame that lies complete in PRS.BUF (42_frame_parser.md R152, R154, R155). -/
def judgeBuffer (m : List Host.Cell) : Except Raise Value :=
  if Memory.read m 0 = startFixed then judgeFixed (Memory.slice m 0 fixedLen)
  else judgeVar (Memory.slice m 0 ((Memory.read m 1).toNat + varExtra))

/-- The byte goes to `BUF[CNT]`, CNT advances, and the second byte of a variable frame gives TOT
(42_frame_parser.md R152). -/
def storeByte (b : Byte) (s : State) : State :=
  let s := { s with buf := Memory.write s.buf s.cnt.toNat b, cnt := s.cnt + 1 }
  if Memory.read s.buf 0 = startVar ∧ s.cnt = 2 then { s with tot := b.setWidth 9 + 6 } else s

/-- FEED inside a frame. At the last byte the parser leaves the frame before it judges it (42_frame_parser.md R152). -/
def feedBody (b : Byte) (s : State) : State × Result :=
  let s := storeByte b s
  if s.cnt ≠ s.tot then (s, .none) else s.idle.conclude (judgeBuffer s.buf)

/-- One FEED: the next state and the result. -/
def feedOne (b : Byte) (s : State) : Except Fault (State × Result) :=
  if s.cnt = 0 then .ok (feedIdle b s)
  else if s.cnt.toNat < bufSize then .ok (feedBody b s)
  else .error (.bufferIndex s.cnt.toNat)

/-- A chunk fed as its bytes in order, with the result of each FEED (20_memory.md R50). -/
def feedAll : List Byte → State → Except Fault (State × List Result)
  | [], s => .ok (s, [])
  | b :: bs, s =>
    match feedOne b s with
    | .error f => .error f
    | .ok (s, r) =>
      match feedAll bs s with
      | .error f => .error f
      | .ok (s, rs) => .ok (s, r :: rs)

/-- FEED (42_frame_parser.md R151, R152). -/
def execFeed (b : Byte) (s : State) : Host.Outcome State Fault Refusal :=
  match feedOne b s with
  | .ok p => .next (finish p)
  | .error f => .fault f

/-- ABORT (42_frame_parser.md R162). -/
def execAbort (s : State) : Host.Outcome State Fault Refusal :=
  .next (s.idle.answer .none)

/-- PARSE (42_frame_parser.md R165). -/
def execParse (m : List Byte) (s : State) : Host.Outcome State Fault Refusal :=
  .next (finish (s.conclude (judgeSeq m)))

end Sys2Proof.Machine
end

