-- ==== Sys2Proof/Machine/TimeCodec.lean ====
section
/-! DEFINITION. T5ENC, T5DEC, T7ENC, T7DEC (43_time_codec.md). -/

namespace Sys2Proof.Machine

/-- The value of T5DEC (43_time_codec.md R182). -/
def decodeTime5 (t : Bytes5) : Value :=
  .time5 (substituteZero (unpackTime t)) (yearFull (unpackTime t))

/-- The value of T7DEC under an order of seconds and milliseconds (43_time_codec.md R188). -/
def decodeTime7 (o : T7Order) (t : Bytes7) : Value :=
  .time7 (unpackMs o (u16le t.b0 t.b1)) (unpackSec o (u16le t.b0 t.b1)) (substituteZero (unpackTime t.rest))
    (yearFull (unpackTime t.rest))

/-- T5ENC (43_time_codec.md R183). -/
def execT5enc (f : TimeFields) (s : State) : Host.Outcome State Fault Refusal :=
  .next (s.giveValue (.bytes (bytes5List (packTime f))))

/-- T5DEC (43_time_codec.md R182). -/
def execT5dec (t : Bytes5) (s : State) : Host.Outcome State Fault Refusal :=
  .next (s.giveValue (decodeTime5 t))

/-- T7ENC (43_time_codec.md R189). -/
def execT7enc (ms : BitVec 10) (sec : BitVec 6) (f : TimeFields) (s : State) : Host.Outcome State Fault Refusal :=
  .next (s.giveValue (.bytes (bytes7List (packTime7 s.cfg.t7Order ms sec f))))

/-- T7DEC (43_time_codec.md R188). -/
def execT7dec (t : Bytes7) (s : State) : Host.Outcome State Fault Refusal :=
  .next (s.giveValue (decodeTime7 s.cfg.t7Order t))

end Sys2Proof.Machine
end

