-- ==== Sys2Proof/Machine/Wire.lean ====
section
/-! DEFINITION. The seven wire formats as items of the received byte stream (30_encoding.md R70; assumption log 5,
DESIGN CHOICE): a frame's bytes reach the block by FEED, one byte each, in order (20_memory.md R50); a control byte, a
cause byte and a compact time are bytes the host has cut out of what it received and gives to the operation that decodes
them (40_checksum_and_byte_fields.md R114, R116; 43_time_codec.md R196). -/

namespace Sys2Proof.Machine

/-- The bytes of a chunk, fed in order (20_memory.md R50). -/
def receive (bs : List Byte) (s : State) : Host.Outcome State Fault Refusal :=
  match feedAll bs s with
  | .ok (s, rs) => .next (s.respond (.results rs))
  | .error f => .fault f

/-- A received fixed frame (30_encoding.md R71). -/
def execWireFixedFrame (x : FixFields) (cs : Byte) (s : State) : Host.Outcome State Fault Refusal :=
  receive (fixedFrameBytes x cs) s

/-- The first 13 bytes of a received variable frame (30_encoding.md R73). -/
def execWireVariableFrameHead (l : Byte) (c : Ctrl) (addr : Address) (tid vsq : Byte) (cot : Cause) (pm : Address)
    (ra : Byte) (s : State) : Host.Outcome State Fault Refusal :=
  receive (varHeadBytes l c addr tid vsq cot pm ra) s

/-- A received control byte, unpacked (30_encoding.md R72, 40_checksum_and_byte_fields.md R114). -/
def execWireControlByte (c : Ctrl) (s : State) : Host.Outcome State Fault Refusal :=
  .next (s.giveValue (.ctrl (unpackCtrl (packCtrl c))))

/-- A received cause byte, unpacked (30_encoding.md R77, 40_checksum_and_byte_fields.md R116). -/
def execWireCauseByte (c : Cause) (s : State) : Host.Outcome State Fault Refusal :=
  .next (s.giveValue (.cause (unpackCause (packCause c))))

/-- A received 5-byte compact time, decoded (30_encoding.md R85, 43_time_codec.md R182). -/
def execWireTime5 (f : TimeFields) (s : State) : Host.Outcome State Fault Refusal :=
  .next (s.giveValue (decodeTime5 (packTime f)))

/-- A received 7-byte compact time laid out in the order SEC_LOW, decoded by the block's own `T7_ORDER`
(30_encoding.md R86, 43_time_codec.md R188). -/
def execWireTime7SecLow (ms : BitVec 10) (sec : BitVec 6) (f : TimeFields) (s : State) :
    Host.Outcome State Fault Refusal :=
  .next (s.giveValue (decodeTime7 s.cfg.t7Order (packTime7 .secLow ms sec f)))

/-- A received 7-byte compact time laid out in the order MS_LOW, decoded by the block's own `T7_ORDER`
(30_encoding.md R86, 43_time_codec.md R188). -/
def execWireTime7MsLow (ms : BitVec 10) (sec : BitVec 6) (f : TimeFields) (s : State) :
    Host.Outcome State Fault Refusal :=
  .next (s.giveValue (decodeTime7 s.cfg.t7Order (packTime7 .msLow ms sec f)))

end Sys2Proof.Machine
end

