-- ==== Sys2Proof/Machine/Dispatch.lean ====
section
/-! DEFINITION. One arm for each row of spec/opcode_table.json. -/

namespace Sys2Proof.Machine

def exec (i : Instr) (s : State) : Host.Outcome State Fault Refusal :=
  match i with
  -- CHK
  | .sum8 b => Sys2Proof.Machine.execSum8 b s
  | .ctrlpk c => Sys2Proof.Machine.execCtrlpk c s
  | .ctrlup c => Sys2Proof.Machine.execCtrlup c s
  | .cotpk c => Sys2Proof.Machine.execCotpk c s
  | .cotup b => Sys2Proof.Machine.execCotup b s
  -- FRM
  | .fixbld x => Sys2Proof.Machine.execFixbld x s
  | .varbld x => Sys2Proof.Machine.execVarbld x s
  | .feed b => Sys2Proof.Machine.execFeed b s
  | .abort => Sys2Proof.Machine.execAbort s
  | .parse m => Sys2Proof.Machine.execParse m s
  -- TIM
  | .t5enc f => Sys2Proof.Machine.execT5enc f s
  | .t5dec t => Sys2Proof.Machine.execT5dec t s
  | .t7enc ms sec f => Sys2Proof.Machine.execT7enc ms sec f s
  | .t7dec t => Sys2Proof.Machine.execT7dec t s
  -- SEQ
  | .wrder v => Sys2Proof.Machine.execWrder v s
  | .wrpm v => Sys2Proof.Machine.execWrpm v s
  | .rdreg k => Sys2Proof.Machine.execRdreg k s
  | .errclr => Sys2Proof.Machine.execErrclr s
  | .fcbnext => Sys2Proof.Machine.execFcbnext s
  | .linkstat => Sys2Proof.Machine.execLinkstat s
  | .linkrst => Sys2Proof.Machine.execLinkrst s
  | .class2 => Sys2Proof.Machine.execClass2 s
  | .userdata x => Sys2Proof.Machine.execUserdata x s
  | .reset => Sys2Proof.Machine.execReset s
  -- reserved command codes
  | .reserved00 => Sys2Proof.Machine.execReserved00 s
  | .reserved06 => Sys2Proof.Machine.execReserved06 s
  | .reserved07 => Sys2Proof.Machine.execReserved07 s
  | .reserved0A => Sys2Proof.Machine.execReserved0A s
  | .reserved0B => Sys2Proof.Machine.execReserved0B s
  | .reserved0F => Sys2Proof.Machine.execReserved0F s
  | .reserved1D => Sys2Proof.Machine.execReserved1D s
  | .reserved1E => Sys2Proof.Machine.execReserved1E s
  -- wire formats
  | .wireFixedFrame x cs => Sys2Proof.Machine.execWireFixedFrame x cs s
  | .wireControlByte c => Sys2Proof.Machine.execWireControlByte c s
  | .wireVariableFrameHead l c addr tid vsq cot pm ra => Sys2Proof.Machine.execWireVariableFrameHead l c addr tid vsq cot pm ra s
  | .wireCauseByte c => Sys2Proof.Machine.execWireCauseByte c s
  | .wireTime5 f => Sys2Proof.Machine.execWireTime5 f s
  | .wireTime7SecLow ms sec f => Sys2Proof.Machine.execWireTime7SecLow ms sec f s
  | .wireTime7MsLow ms sec f => Sys2Proof.Machine.execWireTime7MsLow ms sec f s

end Sys2Proof.Machine
end

