-- ==== Sys2Proof/Machine/Fetch.lean ====
section
/-! DEFINITION. Taking the next item from the host's command port. The block fetches no instructions of its own
(10_state.md R24, 20_memory.md R53): operations come from the host, one after another (00_scope.md R5). -/

namespace Sys2Proof.Machine

/-- What stands next on the port. -/
inductive Fetched where
  /-- Nothing has been issued. -/
  | waiting
  /-- The item, and the state with the item taken off the port. -/
  | item (i : Instr) (s : State)
  /-- Bytes that hold no item. -/
  | rejected (e : DecodeError)
deriving DecidableEq, Repr

/-- The next item on the port. -/
def fetch (s : State) : Fetched :=
  if s.port.isEmpty then .waiting
  else
    match decode s.port with
    | .ok (i, rest) => .item i { s with port := rest }
    | .error e => .rejected e

end Sys2Proof.Machine
end

