-- ==== Sys2Proof/Machine/Step.lean ====
section
/-! DEFINITION. One step: the block takes the next item the host has issued and runs it, or waits
(70_reset_and_hazards.md R271). -/

namespace Sys2Proof.Machine

/-- One step. With nothing on the port the block executes nothing and waits (70_reset_and_hazards.md R271). -/
def step (s : State) : Host.Outcome State Fault Refusal :=
  match fetch s with
  | .waiting => .next s
  | .item i t => exec i t
  | .rejected e => .refused (.undecodable e)

/-- The state with the opcode-table word `w` as the next item on the port. -/
def State.withFetchWord (s : State) (nbits w : Nat) : State := { s with port := tableWordBytes nbits w }

end Sys2Proof.Machine
end

