-- ==== Sys2Proof/Safety.lean ====
section
/-! DEFINITION. What claims about the block speak of: the invariant of the reachable states, runs of operations, and
two states that differ only in what the host cannot observe. -/

namespace Sys2Proof.Machine

/-- The six invariants of 10_state.md R39, in its order. -/
structure ParserInv (s : State) : Prop where
  idle_tot : s.cnt = 0 → s.tot = 0
  marker : s.cnt ≠ 0 → Memory.read s.buf 0 = 0x10 ∨ Memory.read s.buf 0 = 0x68
  fixed : Memory.read s.buf 0 = 0x10 → s.cnt ≠ 0 → s.tot = 6 ∧ s.cnt.toNat ≤ 5
  var_len : Memory.read s.buf 0 = 0x68 → s.cnt = 1 → s.tot = 0
  var_body : Memory.read s.buf 0 = 0x68 → 2 ≤ s.cnt.toNat →
    s.tot.toNat = (Memory.read s.buf 1).toNat + 6 ∧ s.cnt.toNat < s.tot.toNat
  bound : s.cnt.toNat ≤ 260

/-- A recorded error has a code of 60_exceptions.md R240, and its sticky flag is set (R248; R223 and R270 clear ERR and
the flags together). -/
structure ErrorInv (s : State) : Prop where
  code : s.err.code.toNat ≤ 5
  bsb : s.err.code = 1 → s.eBsb = 1
  len : s.err.code = 2 → s.eLen = 1
  chk : s.err.code = 3 → s.eChk = 1
  endb : s.err.code = 4 → s.eEnd = 1
  bld : s.err.code = 5 → s.eBld = 1

/-- The invariant of the reachable states. -/
structure State.Inv (s : State) : Prop where
  parser : ParserInv s
  errors : ErrorInv s
  memory : Memory.wf s.buf = true

/-- Operations issued one after another (20_memory.md R63): the last state, and what each handed back. -/
def runOps : List Instr → State → Host.Outcome (State × List Response) Fault Refusal
  | [], s => .next (s, [])
  | i :: is, s =>
    match exec i s with
    | .fault f => .fault f
    | .refused r => .refused r
    | .next t =>
      match runOps is t with
      | .fault f => .fault f
      | .refused r => .refused r
      | .next (u, rs) => .next (u, t.response :: rs)

/-- In the state `s` the item `i` does what one FEED for each byte of `bs`, in order, does (20_memory.md R50), and hands
back the results of all of them: it ends in the state the FEEDs end in, or in their fault, and where the parser's
invariants hold the FEEDs complete. -/
structure FedInOrder (i : Instr) (bs : List Byte) (s : State) : Prop where
  next : ∀ t responses, runOps (bs.map .feed) s = .next (t, responses) →
    ∃ results : List Result, responses = results.map .result ∧ exec i s = .next { t with response := .results results }
  fault : ∀ f, runOps (bs.map .feed) s = .fault f → exec i s = .fault f
  completes : ParserInv s → ∃ t responses, runOps (bs.map .feed) s = .next (t, responses)

/-- Equal but for the bytes of PRS.BUF at index CNT and above, which 10_state.md R21 calls stale. -/
def SameButStale (s t : State) : Prop :=
  t = { s with buf := t.buf } ∧ ∀ a, a < s.cnt.toNat → Memory.read t.buf a = Memory.read s.buf a

/-- Equal but for the error record: ERR and the sticky flags. -/
def SameButErrors (s t : State) : Prop :=
  t = { s with err := t.err, eBsb := t.eBsb, eLen := t.eLen, eChk := t.eChk, eEnd := t.eEnd, eBld := t.eBld }

/-- The items that feed the parser: FEED, and a received frame's bytes. -/
def feedsParser : Instr → Bool
  | .feed _ | .wireFixedFrame _ _ | .wireVariableFrameHead _ _ _ _ _ _ _ _ => true
  | .sum8 _ | .ctrlpk _ | .ctrlup _ | .cotpk _ | .cotup _ | .fixbld _ | .varbld _ | .abort | .parse _ | .t5enc _ | .t5dec _
  | .t7enc _ _ _ | .t7dec _ | .wrder _ | .wrpm _ | .rdreg _ | .errclr | .fcbnext | .linkstat | .linkrst | .class2
  | .userdata _ | .reset | .reserved00 | .reserved06 | .reserved07 | .reserved0A | .reserved0B | .reserved0F | .reserved1D
  | .reserved1E | .wireControlByte _ | .wireCauseByte _ | .wireTime5 _ | .wireTime7SecLow _ _ _ | .wireTime7MsLow _ _ _ => false

/-- The items that issue a frame-count bit (44_sequencer.md R212): FCBNEXT, CLASS2, and USERDATA when it succeeds. -/
def issuesFrameCount : Instr → Bool
  | .fcbnext | .class2 => true
  | .userdata x => decide (x.data.length ≤ 246)
  | .feed _ | .wireFixedFrame _ _ | .wireVariableFrameHead _ _ _ _ _ _ _ _ | .sum8 _ | .ctrlpk _ | .ctrlup _ | .cotpk _
  | .cotup _ | .fixbld _ | .varbld _ | .abort | .parse _ | .t5enc _ | .t5dec _ | .t7enc _ _ _ | .t7dec _ | .wrder _ | .wrpm _
  | .rdreg _ | .errclr | .linkstat | .linkrst | .reset | .reserved00 | .reserved06 | .reserved07 | .reserved0A | .reserved0B
  | .reserved0F | .reserved1D | .reserved1E | .wireControlByte _ | .wireCauseByte _ | .wireTime5 _ | .wireTime7SecLow _ _ _
  | .wireTime7MsLow _ _ _ => false

/-! ### The wire formats as numbers -/

/-- The control byte `b` holds the fields `c`: `128*res + 64*prm + 32*fcb + 16*fcv + fc` (30_encoding.md R72,
40_checksum_and_byte_fields.md R113). -/
def IsCtrlByte (b : Byte) (c : Ctrl) : Prop :=
  b.toNat = 128 * c.res.toNat + 64 * c.prm.toNat + 32 * c.fcb.toNat + 16 * c.fcv.toNat + c.fc.toNat

/-- The cause byte `b` holds the fields `c`: `128*t + 64*pn + cause` (30_encoding.md R77,
40_checksum_and_byte_fields.md R115). -/
def IsCauseByte (b : Byte) (c : Cause) : Prop := b.toNat = 128 * c.t.toNat + 64 * c.pn.toNat + c.cause.toNat

/-- The two bytes of a 16-bit field, low byte first (20_memory.md R54, 30_encoding.md R87). -/
def IsU16 (lo hi : Byte) (v : Address) : Prop := lo.toNat + 256 * hi.toNat = v.toNat

/-- The additive checksum of some bytes (40_checksum_and_byte_fields.md R110). -/
def IsSum (cs : Byte) (s : List Byte) : Prop := cs.toNat = (s.map BitVec.toNat).sum % 256

/-- The five bytes `t` hold the 13 fields `f` (30_encoding.md R85). -/
def IsTime5 (t : Bytes5) (f : TimeFields) : Prop :=
  t.b0.toNat = f.minute.toNat + 64 * f.tis.toNat + 128 * f.iv.toNat ∧
  t.b1.toNat = f.hour.toNat + 32 * f.res1.toNat + 128 * f.su.toNat ∧
  t.b2.toNat = f.dom.toNat + 32 * f.dow.toNat ∧
  t.b3.toNat = f.month.toNat + 16 * f.eti.toNat + 64 * f.pti.toNat ∧
  t.b4.toNat = f.year.toNat + 128 * f.res2.toNat

/-- The 16 bits before the 5-byte time hold seconds and milliseconds in the order `o` (30_encoding.md R86). -/
def IsSecMs (o : T7Order) (b0 b1 : Byte) (ms : BitVec 10) (sec : BitVec 6) : Prop :=
  b0.toNat + 256 * b1.toNat =
    match o with
    | .secLow => sec.toNat + 64 * ms.toNat
    | .msLow => ms.toNat + 1024 * sec.toNat

end Sys2Proof.Machine
end

