-- ==== Sys2Proof/Certificates/Slice0/Obligations.lean ====
section
/-! DEFINITION. The statements about the block, each a `def Obligations.<Name> : Prop`.

`response` is the model's own field that shows the host an operation's result (00_scope.md R12; assumption log 6), and
`opByte` begins with the command code of 30_encoding.md R100. An equation `exec i s = .next { s with ... }` names every
field that changes, so it is the operation's frame as well: PRS.BUF, every register, ERR and every flag not named in it
are unchanged. -/

open Sys2Proof Sys2Proof.Machine

/-! ### The port: encoding and stepping (model's own layout, assumption log 4) -/

/-- Decoding what the encoder wrote gives the item back, whatever bytes follow. The port's layout is the model's choice
(assumption log 4; 30_encoding.md R101 fixes none). -/
def Obligations.DecodeReadsWhatEncodeWrites : Prop :=
  ∀ (i : Instr) (rest : List Byte), i.WellFormed → decode (encode i ++ rest) = .ok (i, rest)

/-- What the decoder accepts is well-formed, and encoding it gives back exactly the bytes that were read: no bit of an item
is dropped and no two byte sequences stand for one item (the port's layout: assumption log 4). -/
def Obligations.DecodedItemsEncodeBack : Prop :=
  ∀ (bs rest : List Byte) (i : Instr), decode bs = .ok (i, rest) → i.WellFormed ∧ encode i ++ rest = bs

/-- Items written out from the codes of 30_encoding.md R100 and R102 and the patterns of R71 to R86 decode to the items
they stand for (operand layout: assumption log 4). -/
def Obligations.WrittenOutItemsDecode : Prop :=
  decode [0x01, 0x03, 0x00, 0x49, 0x0c, 0x87] = .ok (.sum8 [0x49, 0x0c, 0x87], []) ∧
  decode [0x0c, 0x68] = .ok (.feed 0x68, []) ∧
  decode [0x14, 0x0c, 0x87] = .ok (.wrder 34572, []) ∧
  decode [0x16, 0x07] = .ok (.rdreg 7, []) ∧
  decode [0x1f] = .ok (.reset, []) ∧
  decode [0x06] = .ok (.reserved06, []) ∧
  decode [0x20, 0x10, 0x49, 0x0c, 0x87, 0xdc, 0x16] =
    .ok (.wireFixedFrame { ctrl := { res := 0, prm := 1, fcb := 0, fcv := 0, fc := 9 }, addr := 34572 } 0xdc, [])

/-- With an item on the port, a step takes it off and runs it. -/
def Obligations.StepRunsTheDecodedItem : Prop :=
  ∀ (s : State) (i : Instr) (rest : List Byte), decode s.port = .ok (i, rest) → step s = exec i { s with port := rest }

/-- "the block executes nothing on its own after reset and waits for the host's first operation" (70_reset_and_hazards.md
R271): with nothing on the port a step changes nothing. -/
def Obligations.StepWaitsForTheHost : Prop :=
  ∀ s : State, s.port = [] → step s = .next s

/-- With bytes on the port that hold no item a step is refused by name (the port's layout: assumption log 4). -/
def Obligations.StepRefusesWhatHoldsNoItem : Prop :=
  ∀ (s : State) (e : DecodeError), s.port ≠ [] → decode s.port = .error e → step s = .refused (.undecodable e)

/-! ### CHK (40_checksum_and_byte_fields.md) -/

/-- SUM8 (R110): the sum of the bytes modulo 256, whatever their order. -/
def Obligations.Sum8AddsBytesModulo256 : Prop :=
  ∀ (b : List Byte) (s : State),
    (∃ cs : Byte, IsSum cs b ∧ exec (.sum8 b) s = .next { s with response := .result (.value (.byte cs)) }) ∧
    (∀ b' : List Byte, b.Perm b' → exec (.sum8 b') s = exec (.sum8 b) s) ∧
    opByte (.sum8 b) = 0x01

/-- What the checksum sees and does not see (R111, R112). -/
def Obligations.ChecksumSeesOneChangedByte : Prop :=
  (∀ a b : List Byte, sum8 (a ++ b) = sum8 a + sum8 b) ∧
  (∀ (a b : List Byte) (x y : Byte), x ≠ y → sum8 (a ++ x :: b) ≠ sum8 (a ++ y :: b)) ∧
  (∀ (a b c : List Byte) (x y : Byte), sum8 (a ++ (x + 1) :: b ++ (y - 1) :: c) = sum8 (a ++ x :: b ++ y :: c)) ∧
  (∀ a b : List Byte, a.Perm b → sum8 a = sum8 b)

/-- CTRLPK (R113): the packed byte, and each byte from exactly one combination of fields. -/
def Obligations.CtrlpkPacksTheControlByte : Prop :=
  (∀ (c : Ctrl) (s : State),
    (∃ b : Byte, IsCtrlByte b c ∧ exec (.ctrlpk c) s = .next { s with response := .result (.value (.byte b)) }) ∧
    opByte (.ctrlpk c) = 0x02) ∧
  (∀ (b : Byte) (s : State), ∃! c : Ctrl, exec (.ctrlpk c) s = .next { s with response := .result (.value (.byte b)) })

/-- CTRLUP (R114). -/
def Obligations.CtrlupUnpacksTheControlByte : Prop :=
  ∀ (b : Byte) (s : State),
    (∃ c : Ctrl, exec (.ctrlup b) s = .next { s with response := .result (.value (.ctrl c)) } ∧
      c.res.toNat = b.toNat / 128 ∧ c.prm.toNat = b.toNat / 64 % 2 ∧ c.fcb.toNat = b.toNat / 32 % 2 ∧
      c.fcv.toNat = b.toNat / 16 % 2 ∧ c.fc.toNat = b.toNat % 16) ∧
    opByte (.ctrlup b) = 0x03

/-- COTPK (R115). -/
def Obligations.CotpkPacksTheCauseByte : Prop :=
  ∀ (c : Cause) (s : State),
    (∃ b : Byte, IsCauseByte b c ∧ exec (.cotpk c) s = .next { s with response := .result (.value (.byte b)) }) ∧
    opByte (.cotpk c) = 0x04

/-- COTUP (R116). -/
def Obligations.CotupUnpacksTheCauseByte : Prop :=
  ∀ (b : Byte) (s : State),
    (∃ c : Cause, exec (.cotup b) s = .next { s with response := .result (.value (.cause c)) } ∧
      c.t.toNat = b.toNat / 128 ∧ c.pn.toNat = b.toNat / 64 % 2 ∧ c.cause.toNat = b.toNat % 64) ∧
    opByte (.cotup b) = 0x05

/-- Round trips of the two byte packings, in both directions (R117). -/
def Obligations.ByteFieldsRoundTrip : Prop :=
  (∀ (b : Byte) (s : State), ∃ c : Ctrl, exec (.ctrlup b) s = .next { s with response := .result (.value (.ctrl c)) } ∧
    exec (.ctrlpk c) s = .next { s with response := .result (.value (.byte b)) }) ∧
  (∀ (c : Ctrl) (s : State), ∃ b : Byte, exec (.ctrlpk c) s = .next { s with response := .result (.value (.byte b)) } ∧
    exec (.ctrlup b) s = .next { s with response := .result (.value (.ctrl c)) }) ∧
  (∀ (b : Byte) (s : State), ∃ c : Cause, exec (.cotup b) s = .next { s with response := .result (.value (.cause c)) } ∧
    exec (.cotpk c) s = .next { s with response := .result (.value (.byte b)) }) ∧
  (∀ (c : Cause) (s : State), ∃ b : Byte, exec (.cotpk c) s = .next { s with response := .result (.value (.byte b)) } ∧
    exec (.cotup b) s = .next { s with response := .result (.value (.cause c)) })

/-! ### FRM, the builder (41_frame_builder.md) -/

/-- FIXBLD (R130). -/
def Obligations.FixbldBuildsTheFixedFrame : Prop :=
  ∀ (x : FixFields) (s : State),
    (∃ c lo hi cs : Byte, IsCtrlByte c x.ctrl ∧ IsU16 lo hi x.addr ∧ IsSum cs [c, lo, hi] ∧
      exec (.fixbld x) s = .next { s with response := .result (.value (.bytes [0x10, c, lo, hi, cs, 0x16])) }) ∧
    opByte (.fixbld x) = 0x08

/-- VARBLD (R133): the frame of `n + 15` bytes when the data fit, BuildOverflow when they do not. -/
def Obligations.VarbldBuildsTheVariableFrame : Prop :=
  ∀ (x : VarFields) (s : State),
    (x.data.length ≤ 246 → ∃ l c alo ahi cot plo phi cs : Byte,
      l.toNat = 9 + x.data.length ∧ IsCtrlByte c x.ctrl ∧ IsU16 alo ahi x.addr ∧ IsCauseByte cot x.cot ∧ IsU16 plo phi x.pm ∧
      IsSum cs ([c, alo, ahi, x.tid, x.vsq, cot, plo, phi, x.ra] ++ x.data) ∧
      exec (.varbld x) s = .next { s with response := .result (.value (.bytes
        ([0x68, l, l, 0x68, c, alo, ahi, x.tid, x.vsq, cot, plo, phi, x.ra] ++ x.data ++ [cs, 0x16]))) }) ∧
    (246 < x.data.length → exec (.varbld x) s = .next { s with
      err := { code := 5, pos := 1, got := BitVec.ofNat 8 (9 + x.data.length), exp := 0 }
      eBld := 1
      response := .result (.error .buildOverflow) })

/-- "FIXBLD is injective", "VARBLD is injective on its success domain" (R131, R139). -/
def Obligations.BuildersAreInjective : Prop :=
  (∀ (x y : FixFields) (s : State), exec (.fixbld x) s = exec (.fixbld y) s → x = y) ∧
  (∀ (x y : VarFields) (s : State), x.data.length ≤ 246 → y.data.length ≤ 246 →
    exec (.varbld x) s = exec (.varbld y) s → x = y)

/-- BuildOverflow of VARBLD and of USERDATA (R138, 60_exceptions.md R245): nothing is built, SEQ.FCB is not inverted. -/
def Obligations.TooMuchDataOverflows : Prop :=
  (∀ (x : VarFields) (s : State), 246 < x.data.length → exec (.varbld x) s = .next { s with
      err := { code := 5, pos := 1, got := BitVec.ofNat 8 (9 + x.data.length), exp := 0 }
      eBld := 1
      response := .result (.error .buildOverflow) }) ∧
  (∀ (x : UserFields) (s : State), 246 < x.data.length → exec (.userdata x) s = .next { s with
      err := { code := 5, pos := 1, got := BitVec.ofNat 8 (9 + x.data.length), exp := 0 }
      eBld := 1
      response := .result (.error .buildOverflow) })

/-! ### FRM, the parser (42_frame_parser.md) -/

/-- The first byte (R153): 0x10 and 0x68 open a frame, any other byte raises BadStartByte and leaves the parser idle, and
a run of such bytes raises it once for each. -/
def Obligations.FeedJudgesTheFirstByte : Prop :=
  (∀ (b : Byte) (s : State), s.cnt = 0 →
    (b = 0x10 → ∃ m : List Host.Cell, (∀ a, Memory.read m a = if a = 0 then b else Memory.read s.buf a) ∧
      exec (.feed b) s = .next { s with buf := m, cnt := 1, tot := 6, response := .result .none }) ∧
    (b = 0x68 → ∃ m : List Host.Cell, (∀ a, Memory.read m a = if a = 0 then b else Memory.read s.buf a) ∧
      exec (.feed b) s = .next { s with buf := m, cnt := 1, tot := 0, response := .result .none }) ∧
    (b ≠ 0x10 → b ≠ 0x68 → exec (.feed b) s = .next { s with
      err := { code := 1, pos := 0, got := b, exp := 0 }
      eBsb := 1
      response := .result (.error .badStartByte) })) ∧
  (∀ (bs : List Byte) (s : State), s.cnt = 0 → (∀ b ∈ bs, b ≠ 0x10 ∧ b ≠ 0x68) →
    ∃ t : State, t.cnt = 0 ∧
      runOps (bs.map Instr.feed) s = .next (t, bs.map fun _ => .result (.error .badStartByte)))

/-- Inside a frame FEED stores the byte at `BUF[CNT]`, advances CNT by 1 and returns None; the second byte of a variable
frame sets TOT (R152, R163). -/
def Obligations.FeedStoresInsideAFrame : Prop :=
  ∀ (b : Byte) (s : State), s.cnt ≠ 0 → s.cnt.toNat ≤ 260 →
    ∃ m : List Host.Cell, (∀ a, Memory.read m a = if a = s.cnt.toNat then b else Memory.read s.buf a) ∧
      (Memory.read s.buf 0 = 0x68 ∧ s.cnt = 1 → exec (.feed b) s = .next { s with
        buf := m, cnt := 2, tot := BitVec.ofNat 9 (b.toNat + 6), response := .result .none }) ∧
      (¬(Memory.read s.buf 0 = 0x68 ∧ s.cnt = 1) → s.cnt.toNat + 1 ≠ s.tot.toNat → exec (.feed b) s = .next { s with
        buf := m, cnt := BitVec.ofNat 9 (s.cnt.toNat + 1), response := .result .none })

/-- The sixth byte of a fixed frame (R154): the checksum is judged first, then the end byte, and the parser is idle. -/
def Obligations.FeedCompletesAFixedFrame : Prop :=
  ∀ (b : Byte) (s : State), s.cnt = 5 → s.tot = 6 → Memory.read s.buf 0 = 0x10 →
    ∃ (m : List Host.Cell) (sum : Byte) (x : FixFields),
      (∀ a, Memory.read m a = if a = 5 then b else Memory.read s.buf a) ∧
      IsSum sum [Memory.read s.buf 1, Memory.read s.buf 2, Memory.read s.buf 3] ∧
      IsCtrlByte (Memory.read s.buf 1) x.ctrl ∧ IsU16 (Memory.read s.buf 2) (Memory.read s.buf 3) x.addr ∧
      exec (.feed b) s = .next
        (if Memory.read s.buf 4 ≠ sum then { s with
          buf := m, cnt := 0, tot := 0, err := { code := 3, pos := 4, got := Memory.read s.buf 4, exp := sum }
          eChk := 1, response := .result (.error .checksumMismatch) }
        else if b ≠ 0x16 then { s with
          buf := m, cnt := 0, tot := 0, err := { code := 4, pos := 5, got := b, exp := 0x16 }
          eEnd := 1, response := .result (.error .wrongEndByte) }
        else { s with buf := m, cnt := 0, tot := 0, response := .result (.value (.fixFrame x)) })

/-- The last byte of a variable frame (R155): the checks in the order of the offsets, and the parser is idle. -/
def Obligations.FeedCompletesAVariableFrame : Prop :=
  ∀ (b l : Byte) (s : State), Memory.read s.buf 0 = 0x68 → Memory.read s.buf 1 = l → s.cnt.toNat = l.toNat + 5 →
    s.tot.toNat = l.toNat + 6 →
    ∃ (m : List Host.Cell) (sum : Byte),
      (∀ a, Memory.read m a = if a = l.toNat + 5 then b else Memory.read s.buf a) ∧
      IsSum sum ((List.range l.toNat).map fun k => Memory.read s.buf (4 + k)) ∧
      (l.toNat < 9 → exec (.feed b) s = .next { s with
          buf := m, cnt := 0, tot := 0, err := { code := 2, pos := 1, got := l, exp := 9 }
          eLen := 1, response := .result (.error .lengthMismatch) }) ∧
      (9 ≤ l.toNat → Memory.read s.buf 2 ≠ l → exec (.feed b) s = .next { s with
          buf := m, cnt := 0, tot := 0, err := { code := 2, pos := 2, got := Memory.read s.buf 2, exp := l }
          eLen := 1, response := .result (.error .lengthMismatch) }) ∧
      (9 ≤ l.toNat → Memory.read s.buf 2 = l → Memory.read s.buf 3 ≠ 0x68 → exec (.feed b) s = .next { s with
          buf := m, cnt := 0, tot := 0, err := { code := 1, pos := 3, got := Memory.read s.buf 3, exp := 0x68 }
          eBsb := 1, response := .result (.error .badStartByte) }) ∧
      (9 ≤ l.toNat → Memory.read s.buf 2 = l → Memory.read s.buf 3 = 0x68 → Memory.read s.buf (l.toNat + 4) ≠ sum →
        exec (.feed b) s = .next { s with
          buf := m, cnt := 0, tot := 0
          err := { code := 3, pos := BitVec.ofNat 9 (l.toNat + 4), got := Memory.read s.buf (l.toNat + 4), exp := sum }
          eChk := 1, response := .result (.error .checksumMismatch) }) ∧
      (9 ≤ l.toNat → Memory.read s.buf 2 = l → Memory.read s.buf 3 = 0x68 → Memory.read s.buf (l.toNat + 4) = sum →
        b ≠ 0x16 → exec (.feed b) s = .next { s with
          buf := m, cnt := 0, tot := 0, err := { code := 4, pos := BitVec.ofNat 9 (l.toNat + 5), got := b, exp := 0x16 }
          eEnd := 1, response := .result (.error .wrongEndByte) }) ∧
      (9 ≤ l.toNat → Memory.read s.buf 2 = l → Memory.read s.buf 3 = 0x68 → Memory.read s.buf (l.toNat + 4) = sum →
        b = 0x16 → ∃ x : VarFields,
          IsCtrlByte (Memory.read s.buf 4) x.ctrl ∧ IsU16 (Memory.read s.buf 5) (Memory.read s.buf 6) x.addr ∧
          x.tid = Memory.read s.buf 7 ∧ x.vsq = Memory.read s.buf 8 ∧ IsCauseByte (Memory.read s.buf 9) x.cot ∧
          IsU16 (Memory.read s.buf 10) (Memory.read s.buf 11) x.pm ∧ x.ra = Memory.read s.buf 12 ∧
          x.data = ((List.range (l.toNat - 9)).map fun k => Memory.read s.buf (13 + k)) ∧
          exec (.feed b) s = .next { s with
            buf := m, cnt := 0, tot := 0, response := .result (.value (.varFrame x)) })

/-- PRS.BUF has no index of 261 or more (20_memory.md R52): in a state with such a CNT, which no run from reset reaches,
FEED stops by name. That it stops there is the model's choice (assumption log 9). -/
def Obligations.FeedBeyondTheBufferFaults : Prop :=
  ∀ (b : Byte) (s : State), 261 ≤ s.cnt.toNat → exec (.feed b) s = .fault (.bufferIndex s.cnt.toNat)

/-- ABORT (R162). -/
def Obligations.AbortEmptiesTheParser : Prop :=
  (∀ s : State, exec .abort s = .next { s with cnt := 0, tot := 0, response := .result .none }) ∧ opByte .abort = 0x0D

/-- PARSE's five checks of the sequence, in order (R165, R242 cause (c)); no parser register is touched. -/
def Obligations.ParseChecksTheSequenceLength : Prop :=
  ∀ (f : List Byte) (s : State),
    (f = [] → exec (.parse f) s = .next { s with
      err := { code := 2, pos := 0, got := 0, exp := 0 }, eLen := 1, response := .result (.error .lengthMismatch) }) ∧
    (∀ (b : Byte) (r : List Byte), f = b :: r → b ≠ 0x10 → b ≠ 0x68 → exec (.parse f) s = .next { s with
      err := { code := 1, pos := 0, got := b, exp := 0 }, eBsb := 1, response := .result (.error .badStartByte) }) ∧
    (∀ r : List Byte, f = 0x10 :: r → r.length ≠ 5 → exec (.parse f) s = .next { s with
      err := { code := 2, pos := 0, got := 0x10, exp := 0 }, eLen := 1, response := .result (.error .lengthMismatch) }) ∧
    (f = [0x68] → exec (.parse f) s = .next { s with
      err := { code := 2, pos := 1, got := 0, exp := 0 }, eLen := 1, response := .result (.error .lengthMismatch) }) ∧
    (∀ (l : Byte) (r : List Byte), f = 0x68 :: l :: r → r.length ≠ l.toNat + 4 → exec (.parse f) s = .next { s with
      err := { code := 2, pos := 1, got := l, exp := 0 }, eLen := 1, response := .result (.error .lengthMismatch) })

/-- PARSE of six bytes that start with 0x10 (R165, R154). -/
def Obligations.ParseJudgesAFixedFrame : Prop :=
  ∀ (c lo hi k e : Byte) (s : State), ∃ (sum : Byte) (x : FixFields),
    IsSum sum [c, lo, hi] ∧ IsCtrlByte c x.ctrl ∧ IsU16 lo hi x.addr ∧
    exec (.parse [0x10, c, lo, hi, k, e]) s = .next
      (if k ≠ sum then { s with
        err := { code := 3, pos := 4, got := k, exp := sum }, eChk := 1, response := .result (.error .checksumMismatch) }
      else if e ≠ 0x16 then { s with
        err := { code := 4, pos := 5, got := e, exp := 0x16 }, eEnd := 1, response := .result (.error .wrongEndByte) }
      else { s with response := .result (.value (.fixFrame x)) })

/-- PARSE of a sequence that starts with 0x68 and is as long as it declares (R165, R155). -/
def Obligations.ParseJudgesAVariableFrame : Prop :=
  (∀ (l : Byte) (r : List Byte) (s : State), r.length = l.toNat + 4 → l.toNat < 9 →
    exec (.parse (0x68 :: l :: r)) s = .next { s with
      err := { code := 2, pos := 1, got := l, exp := 9 }, eLen := 1, response := .result (.error .lengthMismatch) }) ∧
  (∀ (l l' m c alo ahi tid vsq cot plo phi ra k e : Byte) (data : List Byte) (s : State), l.toNat = 9 + data.length →
    ∃ (sum : Byte) (x : VarFields),
      IsSum sum ([c, alo, ahi, tid, vsq, cot, plo, phi, ra] ++ data) ∧
      IsCtrlByte c x.ctrl ∧ IsU16 alo ahi x.addr ∧ x.tid = tid ∧ x.vsq = vsq ∧ IsCauseByte cot x.cot ∧ IsU16 plo phi x.pm ∧
      x.ra = ra ∧ x.data = data ∧
      exec (.parse ([0x68, l, l', m, c, alo, ahi, tid, vsq, cot, plo, phi, ra] ++ data ++ [k, e])) s = .next
        (if l' ≠ l then { s with
          err := { code := 2, pos := 2, got := l', exp := l }, eLen := 1, response := .result (.error .lengthMismatch) }
        else if m ≠ 0x68 then { s with
          err := { code := 1, pos := 3, got := m, exp := 0x68 }, eBsb := 1, response := .result (.error .badStartByte) }
        else if k ≠ sum then { s with
          err := { code := 3, pos := BitVec.ofNat 9 (l.toNat + 4), got := k, exp := sum }, eChk := 1
          response := .result (.error .checksumMismatch) }
        else if e ≠ 0x16 then { s with
          err := { code := 4, pos := BitVec.ofNat 9 (l.toNat + 5), got := e, exp := 0x16 }, eEnd := 1
          response := .result (.error .wrongEndByte) }
        else { s with response := .result (.value (.varFrame x)) }))

/-- PARSE and FEED agree (R166): fed to an idle parser, a sequence as long as it declares returns None until its last
byte, and then what PARSE returns, with the same ERR and flags; the parser is idle again. -/
def Obligations.ParseAgreesWithFeed : Prop :=
  ∀ (f : List Byte) (s : State), s.cnt = 0 → s.tot = 0 →
    (f.head? = some 0x10 ∧ f.length = 6 ∨
      ∃ (l : Byte) (r : List Byte), f = 0x68 :: l :: r ∧ f.length = l.toNat + 6) →
    ∃ (t : State) (m : List Host.Cell),
      exec (.parse f) s = .next t ∧
      runOps (f.map Instr.feed) s =
        .next ({ t with buf := m }, List.replicate (f.length - 1) (.result .none) ++ [t.response])

/-- Frame round trip (R167): `PARSE(FIXBLD(x)) = Fixed{x}`, `PARSE(VARBLD(x)) = Var{x}` for at most 246 data bytes, and
what PARSE accepts as `Fixed{x}` or `Var{x}` is `FIXBLD(x)` or `VARBLD(x)`. -/
def Obligations.FrameRoundTrip : Prop :=
  (∀ (x : FixFields) (s : State), ∃ f : List Byte,
    exec (.fixbld x) s = .next { s with response := .result (.value (.bytes f)) } ∧
    exec (.parse f) s = .next { s with response := .result (.value (.fixFrame x)) }) ∧
  (∀ (x : VarFields) (s : State), x.data.length ≤ 246 → ∃ f : List Byte,
    exec (.varbld x) s = .next { s with response := .result (.value (.bytes f)) } ∧
    exec (.parse f) s = .next { s with response := .result (.value (.varFrame x)) }) ∧
  (∀ (f : List Byte) (x : FixFields) (s t : State), exec (.parse f) s = .next t →
    t.response = .result (.value (.fixFrame x)) →
    exec (.fixbld x) s = .next { s with response := .result (.value (.bytes f)) }) ∧
  (∀ (f : List Byte) (x : VarFields) (s t : State), exec (.parse f) s = .next t →
    t.response = .result (.value (.varFrame x)) →
    exec (.varbld x) s = .next { s with response := .result (.value (.bytes f)) })

/-- A built frame fed byte by byte to an idle parser returns None until its last byte and then the frame value with the
operands it was built from (41_frame_builder.md R140). -/
def Obligations.BuiltFramesFedBackAreReturned : Prop :=
  (∀ (x : FixFields) (s : State), s.cnt = 0 → ∃ (f : List Byte) (t : State),
    exec (.fixbld x) s = .next { s with response := .result (.value (.bytes f)) } ∧
    runOps (f.map Instr.feed) s = .next (t, List.replicate 5 (.result .none) ++ [.result (.value (.fixFrame x))])) ∧
  (∀ (x : VarFields) (s : State), s.cnt = 0 → x.data.length ≤ 246 → ∃ (f : List Byte) (t : State),
    exec (.varbld x) s = .next { s with response := .result (.value (.bytes f)) } ∧
    runOps (f.map Instr.feed) s =
      .next (t, List.replicate (x.data.length + 14) (.result .none) ++ [.result (.value (.varFrame x))]))

/-- One summed byte of a built frame changed to another value: PARSE returns ChecksumMismatch with the sum over the
changed bytes expected and the frame's own checksum found (R168). -/
def Obligations.AChangedSummedByteIsCaught : Prop :=
  (∀ (x : FixFields) (f : List Byte) (s : State) (i : Nat) (v : Byte),
    exec (.fixbld x) s = .next { s with response := .result (.value (.bytes f)) } → 1 ≤ i → i ≤ 3 → f.getD i 0 ≠ v →
    ∃ sum : Byte, IsSum sum (((f.set i v).drop 1).take 3) ∧
      exec (.parse (f.set i v)) s = .next { s with
        err := { code := 3, pos := 4, got := f.getD 4 0, exp := sum }, eChk := 1
        response := .result (.error .checksumMismatch) }) ∧
  (∀ (x : VarFields) (f : List Byte) (s : State) (i : Nat) (v : Byte),
    exec (.varbld x) s = .next { s with response := .result (.value (.bytes f)) } → 4 ≤ i → i ≤ x.data.length + 12 →
    f.getD i 0 ≠ v →
    ∃ sum : Byte, IsSum sum (((f.set i v).drop 4).take (x.data.length + 9)) ∧
      exec (.parse (f.set i v)) s = .next { s with
        err := { code := 3, pos := BitVec.ofNat 9 (x.data.length + 13), got := f.getD (x.data.length + 13) 0, exp := sum }
        eChk := 1
        response := .result (.error .checksumMismatch) })

/-! ### TIM (43_time_codec.md) -/

/-- T5ENC (R183): nothing is substituted and nothing is rejected. -/
def Obligations.T5encPacksTheFields : Prop :=
  ∀ (f : TimeFields) (s : State),
    (∃ t : Bytes5, IsTime5 t f ∧
      exec (.t5enc f) s = .next { s with response := .result (.value (.bytes [t.b0, t.b1, t.b2, t.b3, t.b4])) }) ∧
    opByte (.t5enc f) = 0x10

/-- T5DEC (R182, R184): the 13 fields as they stand, but a day or a month that reads 0 is returned as 1; `year_full` is
2000 more than the year. -/
def Obligations.T5decUnpacksTheFields : Prop :=
  ∀ (t : Bytes5) (s : State),
    (∃ (f : TimeFields) (y : BitVec 12), IsTime5 t f ∧ y.toNat = 2000 + f.year.toNat ∧
      exec (.t5dec t) s = .next { s with response := .result (.value (.time5
        { f with dom := if f.dom = 0 then 1 else f.dom, month := if f.month = 0 then 1 else f.month } y)) }) ∧
    opByte (.t5dec t) = 0x11

/-- Round trips of the 5-byte form (R186): fields to bytes to fields, a zero day or month coming back as 1 and every other
field as it was; and bytes to fields to bytes, where zero day bits or month bits come back as 1 and every other bit as it
was. -/
def Obligations.FiveByteTimeRoundTrip : Prop :=
  (∀ (f : TimeFields) (s : State), ∃ (t : Bytes5) (y : BitVec 12),
    exec (.t5enc f) s = .next { s with response := .result (.value (.bytes [t.b0, t.b1, t.b2, t.b3, t.b4])) } ∧
    exec (.t5dec t) s = .next { s with response := .result (.value (.time5
      { f with dom := if f.dom = 0 then 1 else f.dom, month := if f.month = 0 then 1 else f.month } y)) }) ∧
  (∀ (t : Bytes5) (s : State), ∃ (f : TimeFields) (y : BitVec 12),
    exec (.t5dec t) s = .next { s with response := .result (.value (.time5 f y)) } ∧
    exec (.t5enc f) s = .next { s with response := .result (.value (.bytes
      [t.b0, t.b1, if t.b2.toNat % 32 = 0 then t.b2 + 1 else t.b2, if t.b3.toNat % 16 = 0 then t.b3 + 1 else t.b3,
        t.b4])) })

/-- T7ENC (R189), for both values of `T7_ORDER`. -/
def Obligations.T7encPacksTheFields : Prop :=
  ∀ (ms : BitVec 10) (sec : BitVec 6) (f : TimeFields) (s : State),
    (∃ (b0 b1 : Byte) (t : Bytes5), IsSecMs s.cfg.t7Order b0 b1 ms sec ∧ IsTime5 t f ∧
      exec (.t7enc ms sec f) s =
        .next { s with response := .result (.value (.bytes [b0, b1, t.b0, t.b1, t.b2, t.b3, t.b4])) }) ∧
    opByte (.t7enc ms sec f) = 0x12

/-- T7DEC (R188), for both values of `T7_ORDER`. -/
def Obligations.T7decUnpacksTheFields : Prop :=
  ∀ (t : Bytes7) (s : State),
    (∃ (ms : BitVec 10) (sec : BitVec 6) (f : TimeFields) (y : BitVec 12),
      IsSecMs s.cfg.t7Order t.b0 t.b1 ms sec ∧ IsTime5 t.rest f ∧ y.toNat = 2000 + f.year.toNat ∧
      exec (.t7dec t) s = .next { s with response := .result (.value (.time7 ms sec
        { f with dom := if f.dom = 0 then 1 else f.dom, month := if f.month = 0 then 1 else f.month } y)) }) ∧
    opByte (.t7dec t) = 0x13

/-- Round trips of the 7-byte form (R190), for both values of `T7_ORDER`: those of the 5-byte form, and seconds and
milliseconds always survive. -/
def Obligations.SevenByteTimeRoundTrip : Prop :=
  (∀ (ms : BitVec 10) (sec : BitVec 6) (f : TimeFields) (s : State), ∃ (t : Bytes7) (y : BitVec 12),
    exec (.t7enc ms sec f) s = .next { s with response := .result (.value (.bytes
      [t.b0, t.b1, t.rest.b0, t.rest.b1, t.rest.b2, t.rest.b3, t.rest.b4])) } ∧
    exec (.t7dec t) s = .next { s with response := .result (.value (.time7 ms sec
      { f with dom := if f.dom = 0 then 1 else f.dom, month := if f.month = 0 then 1 else f.month } y)) }) ∧
  (∀ (t : Bytes7) (s : State), ∃ (ms : BitVec 10) (sec : BitVec 6) (f : TimeFields) (y : BitVec 12),
    exec (.t7dec t) s = .next { s with response := .result (.value (.time7 ms sec f y)) } ∧
    exec (.t7enc ms sec f) s = .next { s with response := .result (.value (.bytes
      [t.b0, t.b1, t.rest.b0, t.rest.b1, if t.rest.b2.toNat % 32 = 0 then t.rest.b2 + 1 else t.rest.b2,
        if t.rest.b3.toNat % 16 = 0 then t.rest.b3 + 1 else t.rest.b3, t.rest.b4])) })

/-! ### SEQ (44_sequencer.md) -/

/-- FCBNEXT (R211): inverts, then returns the inverted bit. -/
def Obligations.FcbnextInvertsThenReturns : Prop :=
  ∀ s : State,
    (∃ v : Bit, v.toNat = 1 - s.fcb.toNat ∧
      exec .fcbnext s = .next { s with fcb := v, response := .result (.value (.bit v)) }) ∧
    opByte .fcbnext = 0x18

/-- LINKSTAT (R213). -/
def Obligations.LinkstatBuildsTheStatusRequest : Prop :=
  ∀ s : State,
    (∃ lo hi cs : Byte, IsU16 lo hi s.der ∧ IsSum cs [0x49, lo, hi] ∧
      exec .linkstat s = .next { s with response := .result (.value (.bytes [0x10, 0x49, lo, hi, cs, 0x16])) }) ∧
    opByte .linkstat = 0x19

/-- LINKRST (R214), for every value of `FC_RESET_LINK`. -/
def Obligations.LinkrstBuildsTheResetRequest : Prop :=
  ∀ s : State,
    (∃ c lo hi cs : Byte, c.toNat = 64 + s.cfg.fcResetLink.toNat ∧ IsU16 lo hi s.der ∧ IsSum cs [c, lo, hi] ∧
      exec .linkrst s = .next { s with response := .result (.value (.bytes [0x10, c, lo, hi, cs, 0x16])) }) ∧
    opByte .linkrst = 0x1A

/-- CLASS2 (R216), for every value of `FC_REQ_CLASS2`: the frame carries the inverted bit. -/
def Obligations.Class2BuildsTheDataRequest : Prop :=
  ∀ s : State,
    (∃ (v : Bit) (c lo hi cs : Byte), v.toNat = 1 - s.fcb.toNat ∧
      c.toNat = 64 + 32 * v.toNat + 16 + s.cfg.fcReqClass2.toNat ∧ IsU16 lo hi s.der ∧ IsSum cs [c, lo, hi] ∧
      exec .class2 s = .next { s with
        fcb := v, response := .result (.value (.bytes [0x10, c, lo, hi, cs, 0x16])) }) ∧
    opByte .class2 = 0x1B

/-- USERDATA (R217), for every value of `FC_USER_DATA`: the frame carries the inverted bit and the two addresses; with too
much data the bit is not inverted. -/
def Obligations.UserdataBuildsTheMessageRequest : Prop :=
  ∀ (x : UserFields) (s : State),
    (x.data.length ≤ 246 → ∃ (v : Bit) (l c alo ahi cot plo phi cs : Byte), v.toNat = 1 - s.fcb.toNat ∧
      l.toNat = 9 + x.data.length ∧ c.toNat = 64 + 32 * v.toNat + 16 + s.cfg.fcUserData.toNat ∧ IsU16 alo ahi s.der ∧
      IsCauseByte cot x.cot ∧ IsU16 plo phi s.dirpm ∧
      IsSum cs ([c, alo, ahi, x.tid, x.vsq, cot, plo, phi, x.ra] ++ x.data) ∧
      exec (.userdata x) s = .next { s with fcb := v, response := .result (.value (.bytes
        ([0x68, l, l, 0x68, c, alo, ahi, x.tid, x.vsq, cot, plo, phi, x.ra] ++ x.data ++ [cs, 0x16]))) }) ∧
    (246 < x.data.length → exec (.userdata x) s = .next { s with
      err := { code := 5, pos := 1, got := BitVec.ofNat 8 (9 + x.data.length), exp := 0 }
      eBld := 1
      response := .result (.error .buildOverflow) }) ∧
    opByte (.userdata x) = 0x1C

/-- Alternation (R212): FCBNEXT, CLASS2 and a successful USERDATA invert SEQ.FCB once, RESET puts it to `FCB_RESET`, and
no other item changes it. -/
def Obligations.OnlyIssuingInvertsTheFrameCountBit : Prop :=
  ∀ (i : Instr) (s t : State), exec i s = .next t →
    (issuesFrameCount i = true → t.fcb.toNat = 1 - s.fcb.toNat) ∧
    (i = .reset → t.fcb = s.cfg.fcbReset) ∧
    (issuesFrameCount i = false → i ≠ .reset → t.fcb = s.fcb)

/-- WRDER and WRPM (R219, R220): the address is written, and the matching RDREG reads it. -/
def Obligations.AddressWritesAreReadBack : Prop :=
  ∀ (v : Address) (s : State),
    exec (.wrder v) s = .next { s with der := v, response := .result .none } ∧
    exec (.wrpm v) s = .next { s with dirpm := v, response := .result .none } ∧
    (∃ w : BitVec 32, w.toNat = v.toNat ∧
      exec (.rdreg 2) { s with der := v } = .next { s with der := v, response := .result (.value (.word w)) }) ∧
    (∃ w : BitVec 32, w.toNat = v.toNat ∧
      exec (.rdreg 3) { s with dirpm := v } = .next { s with dirpm := v, response := .result (.value (.word w)) }) ∧
    opByte (.wrder v) = 0x14 ∧ opByte (.wrpm v) = 0x15

/-- RDREG (R222) with the layouts of STATUS (10_state.md R30) and ERR (R33): the register zero-extended, reserved bits 0,
and no side effect. -/
def Obligations.RdregReadsTheRegisters : Prop :=
  ∀ (k : BitVec 3) (s : State), ∃ w : BitVec 32,
    exec (.rdreg k) s = .next { s with response := .result (.value (.word w)) } ∧
    (k = 0 → w.toNat =
      (if s.cnt ≠ 0 then 1 else 0) + 2 * (if s.cnt ≠ 0 ∧ Memory.read s.buf 0 = 0x68 then 1 else 0) +
      4 * (if s.tot ≠ 0 then 1 else 0) + 8 * s.fcb.toNat + 256 * s.eBsb.toNat + 512 * s.eLen.toNat + 1024 * s.eChk.toNat +
      2048 * s.eEnd.toNat + 4096 * s.eBld.toNat) ∧
    (k = 1 → w.toNat =
      s.err.code.toNat + 128 * s.err.pos.toNat + 65536 * s.err.got.toNat + 16777216 * s.err.exp.toNat) ∧
    (k = 2 → w.toNat = s.der.toNat) ∧
    (k = 3 → w.toNat = s.dirpm.toNat) ∧
    (k = 4 → w.toNat = s.cnt.toNat) ∧
    (k = 5 → w.toNat = s.tot.toNat) ∧
    (k = 6 ∨ k = 7 → w = 0) ∧
    opByte (.rdreg k) = 0x16

/-- ERRCLR (R223). -/
def Obligations.ErrclrClearsTheErrorRecord : Prop :=
  (∀ s : State, exec .errclr s = .next { s with
    err := { code := 0, pos := 0, got := 0, exp := 0 }
    eBsb := 0, eLen := 0, eChk := 0, eEnd := 0, eBld := 0
    response := .result .none }) ∧
  opByte .errclr = 0x17

/-! ### Errors (60_exceptions.md) and reset (70_reset_and_hazards.md) -/

/-- Every operation that returns an error (60_exceptions.md R240, with R248 and R249): it is one the table of R240 lets raise that
error, ERR.CODE is the error's number, its sticky flag is set and the other four are untouched, SEQ is untouched, FEED is
idle afterwards, and the other operations leave PRS untouched. -/
def Obligations.AnErrorResultIsRecorded : Prop :=
  ∀ (i : Instr) (e : FrameError) (s t : State), exec i s = .next t → t.response = .result (.error e) →
    (((∃ b, i = .feed b) ∨ (∃ m, i = .parse m)) ∧ e ≠ .buildOverflow ∨
      ((∃ x, i = .varbld x) ∨ (∃ x, i = .userdata x)) ∧ e = .buildOverflow) ∧
    t.err.code.toNat =
      (match e with
      | .badStartByte => 1
      | .lengthMismatch => 2
      | .checksumMismatch => 3
      | .wrongEndByte => 4
      | .buildOverflow => 5) ∧
    t.eBsb = (if e = .badStartByte then 1 else s.eBsb) ∧
    t.eLen = (if e = .lengthMismatch then 1 else s.eLen) ∧
    t.eChk = (if e = .checksumMismatch then 1 else s.eChk) ∧
    t.eEnd = (if e = .wrongEndByte then 1 else s.eEnd) ∧
    t.eBld = (if e = .buildOverflow then 1 else s.eBld) ∧
    t.fcb = s.fcb ∧ t.der = s.der ∧ t.dirpm = s.dirpm ∧
    ((∃ b, i = .feed b) → t.cnt = 0) ∧
    ((∀ b, i ≠ .feed b) → t.cnt = s.cnt ∧ t.tot = s.tot ∧ ∀ a, Memory.read t.buf a = Memory.read s.buf a)

/-- ERR and the sticky flags stay until ERRCLR or RESET (10_state.md R31, R34): no other item clears a flag, and an
operation that returns no error changes neither. -/
def Obligations.TheErrorRecordStaysUntilCleared : Prop :=
  ∀ (i : Instr) (s t : State), exec i s = .next t → i ≠ .errclr → i ≠ .reset →
    ((s.eBsb = 1 → t.eBsb = 1) ∧ (s.eLen = 1 → t.eLen = 1) ∧ (s.eChk = 1 → t.eChk = 1) ∧ (s.eEnd = 1 → t.eEnd = 1) ∧
      (s.eBld = 1 → t.eBld = 1)) ∧
    ((∃ b, i = .feed b) ∨ feedsParser i = false → (∀ e, t.response ≠ .result (.error e)) →
      t.err = s.err ∧ t.eBsb = s.eBsb ∧ t.eLen = s.eLen ∧ t.eChk = s.eChk ∧ t.eEnd = s.eEnd ∧ t.eBld = s.eBld)

/-- RESET (70_reset_and_hazards.md R270), for every value of `FCB_RESET`; PRS.BUF keeps what it held. Power-on has the same
effect: after it a RESET changes no register. -/
def Obligations.ResetClearsTheRegisters : Prop :=
  (∀ s : State,
    exec .reset s = .next { s with
      cnt := 0, tot := 0, fcb := s.cfg.fcbReset, der := 0, dirpm := 0
      err := { code := 0, pos := 0, got := 0, exp := 0 }
      eBsb := 0, eLen := 0, eChk := 0, eEnd := 0, eBld := 0
      response := .result .none }) ∧
  (∀ c : Config, exec .reset (State.powerOn c) = .next { State.powerOn c with response := .result .none }) ∧
  opByte .reset = 0x1F

/-- The state after power-on under any parameters (10_state.md R40), and that STATUS then reads `FCB_RESET << 3`. PRS.BUF,
unspecified there, is not spoken of. -/
def Obligations.PowerOnIsTheResetState : Prop :=
  ∀ c : Config,
    (State.powerOn c).cnt = 0 ∧ (State.powerOn c).tot = 0 ∧ (State.powerOn c).fcb = c.fcbReset ∧
    (State.powerOn c).der = 0 ∧ (State.powerOn c).dirpm = 0 ∧
    (State.powerOn c).err = { code := 0, pos := 0, got := 0, exp := 0 } ∧
    (State.powerOn c).eBsb = 0 ∧ (State.powerOn c).eLen = 0 ∧ (State.powerOn c).eChk = 0 ∧ (State.powerOn c).eEnd = 0 ∧
    (State.powerOn c).eBld = 0 ∧ (State.powerOn c).status.toNat = 8 * c.fcbReset.toNat

/-- A reserved command code (30_encoding.md R102): "the command port refuses it, no state changes and no result is
produced". That the block goes on after the refusal is the model's reading (assumption log 8). -/
def Obligations.ReservedCodesChangeNothing : Prop :=
  ∀ s : State,
    exec .reserved00 s = .next { s with response := .refused } ∧ decode [0x00] = .ok (.reserved00, []) ∧
    exec .reserved06 s = .next { s with response := .refused } ∧ decode [0x06] = .ok (.reserved06, []) ∧
    exec .reserved07 s = .next { s with response := .refused } ∧ decode [0x07] = .ok (.reserved07, []) ∧
    exec .reserved0A s = .next { s with response := .refused } ∧ decode [0x0A] = .ok (.reserved0A, []) ∧
    exec .reserved0B s = .next { s with response := .refused } ∧ decode [0x0B] = .ok (.reserved0B, []) ∧
    exec .reserved0F s = .next { s with response := .refused } ∧ decode [0x0F] = .ok (.reserved0F, []) ∧
    exec .reserved1D s = .next { s with response := .refused } ∧ decode [0x1D] = .ok (.reserved1D, []) ∧
    exec .reserved1E s = .next { s with response := .refused } ∧ decode [0x1E] = .ok (.reserved1E, [])

/-! ### Received wire items (the model's reading of the wire rows of the opcode table, assumption log 5) -/

/-- A received frame's bytes reach the parser one by one (20_memory.md R50). In every state, whatever frame the parser is
in and whatever length a head declares, a received frame does what FEEDs of its bytes in order do, and hands back the list
of their results. With the parser idle a fixed frame is judged at its sixth byte, and the 13 bytes of the head of a variable
frame that is not complete with them are stored and counted, the declared length giving TOT. That a wire row is such an
item is the model's choice (assumption log 5). -/
def Obligations.WireFramesFeedTheParser : Prop :=
  (∀ (x : FixFields) (cs : Byte) (s : State), s.cnt = 0 →
    ∃ (m : List Host.Cell) (c lo hi sum : Byte), IsCtrlByte c x.ctrl ∧ IsU16 lo hi x.addr ∧ IsSum sum [c, lo, hi] ∧
      (∀ a, Memory.read m a = if a < 6 then [0x10, c, lo, hi, cs, 0x16].getD a 0 else Memory.read s.buf a) ∧
      exec (.wireFixedFrame x cs) s = .next
        (if cs = sum then { s with
          buf := m, cnt := 0, tot := 0
          response := .results [.none, .none, .none, .none, .none, .value (.fixFrame x)] }
        else { s with
          buf := m, cnt := 0, tot := 0, err := { code := 3, pos := 4, got := cs, exp := sum }, eChk := 1
          response := .results [.none, .none, .none, .none, .none, .error .checksumMismatch] })) ∧
  (∀ (l : Byte) (c : Ctrl) (addr : Address) (tid vsq : Byte) (cot : Cause) (pm : Address) (ra : Byte) (s : State),
    s.cnt = 0 → 8 ≤ l.toNat →
    ∃ (m : List Host.Cell) (cb alo ahi cotb plo phi : Byte), IsCtrlByte cb c ∧ IsU16 alo ahi addr ∧ IsCauseByte cotb cot ∧
      IsU16 plo phi pm ∧
      (∀ a, Memory.read m a =
        if a < 13 then [0x68, l, l, 0x68, cb, alo, ahi, tid, vsq, cotb, plo, phi, ra].getD a 0 else Memory.read s.buf a) ∧
      exec (.wireVariableFrameHead l c addr tid vsq cot pm ra) s = .next { s with
        buf := m, cnt := 13, tot := BitVec.ofNat 9 (l.toNat + 6), response := .results (List.replicate 13 .none) }) ∧
  (∀ (x : FixFields) (cs : Byte) (s : State), ∃ c lo hi : Byte, IsCtrlByte c x.ctrl ∧ IsU16 lo hi x.addr ∧
    FedInOrder (.wireFixedFrame x cs) [0x10, c, lo, hi, cs, 0x16] s) ∧
  (∀ (l : Byte) (c : Ctrl) (addr : Address) (tid vsq : Byte) (cot : Cause) (pm : Address) (ra : Byte) (s : State),
    ∃ cb alo ahi cotb plo phi : Byte, IsCtrlByte cb c ∧ IsU16 alo ahi addr ∧ IsCauseByte cotb cot ∧ IsU16 plo phi pm ∧
      FedInOrder (.wireVariableFrameHead l c addr tid vsq cot pm ra)
        [0x68, l, l, 0x68, cb, alo, ahi, tid, vsq, cotb, plo, phi, ra] s)

/-- A received control byte, cause byte or compact time is decoded to the fields it was laid out from, a zero day or month
read as 1; a 7-byte time laid out in the other order than the block's `T7_ORDER` gives other seconds and milliseconds and
the same 13 fields. -/
def Obligations.WireFieldsAreDecoded : Prop :=
  (∀ (c : Ctrl) (s : State), exec (.wireControlByte c) s = .next { s with response := .result (.value (.ctrl c)) }) ∧
  (∀ (c : Cause) (s : State), exec (.wireCauseByte c) s = .next { s with response := .result (.value (.cause c)) }) ∧
  (∀ (f : TimeFields) (s : State), ∃ y : BitVec 12, y.toNat = 2000 + f.year.toNat ∧
    exec (.wireTime5 f) s = .next { s with response := .result (.value (.time5
      { f with dom := if f.dom = 0 then 1 else f.dom, month := if f.month = 0 then 1 else f.month } y)) }) ∧
  (∀ (ms : BitVec 10) (sec : BitVec 6) (f : TimeFields) (s : State),
    ∃ (ms' : BitVec 10) (sec' : BitVec 6) (y : BitVec 12), y.toNat = 2000 + f.year.toNat ∧
      (s.cfg.t7Order = .secLow → ms' = ms ∧ sec' = sec) ∧
      (s.cfg.t7Order = .msLow → ms'.toNat + 1024 * sec'.toNat = sec.toNat + 64 * ms.toNat) ∧
      exec (.wireTime7SecLow ms sec f) s = .next { s with response := .result (.value (.time7 ms' sec'
        { f with dom := if f.dom = 0 then 1 else f.dom, month := if f.month = 0 then 1 else f.month } y)) }) ∧
  (∀ (ms : BitVec 10) (sec : BitVec 6) (f : TimeFields) (s : State),
    ∃ (ms' : BitVec 10) (sec' : BitVec 6) (y : BitVec 12), y.toNat = 2000 + f.year.toNat ∧
      (s.cfg.t7Order = .msLow → ms' = ms ∧ sec' = sec) ∧
      (s.cfg.t7Order = .secLow → sec'.toNat + 64 * ms'.toNat = ms.toNat + 1024 * sec.toNat) ∧
      exec (.wireTime7MsLow ms sec f) s = .next { s with response := .result (.value (.time7 ms' sec'
        { f with dom := if f.dom = 0 then 1 else f.dom, month := if f.month = 0 then 1 else f.month } y)) })

/-! ### The whole machine -/

/-- Every step keeps the invariants of 10_state.md R39, the agreement of ERR with the sticky flags, and the canonical form
of PRS.BUF. -/
def Obligations.EveryStepKeepsTheInvariant : Prop :=
  ∀ s t : State, s.Inv → step s = .next t → t.Inv

/-- The invariant holds after power-on, whatever the parameters. -/
def Obligations.PowerOnMeetsTheInvariant : Prop :=
  (∀ c : Config, (State.powerOn c).Inv) ∧ State.reset.Inv

/-- In every state, reachable or not, an item that completes keeps PRS.BUF in its canonical form. -/
def Obligations.TheBufferStaysCanonical : Prop :=
  ∀ (i : Instr) (s t : State), Memory.wf s.buf = true → exec i s = .next t → Memory.wf t.buf = true

/-- "Every operation may be issued at any time" (60_exceptions.md R254): in every state that meets the invariant every item
completes. For the 24 operations of 30_encoding.md R100 this is R254 and 20_memory.md R52. That the block goes on after one
of the eight reserved codes is the model's choice (assumption log 8), and so is that the seven wire rows are items
(assumption log 5). -/
def Obligations.EveryItemCompletes : Prop :=
  ∀ (i : Instr) (s : State), s.Inv → ∃ t : State, exec i s = .next t

/-- From every state that meets the invariant every sequence of items completes, each handing back its response, and the
invariant holds at the end. That a run goes on past a reserved code is the model's choice (assumption log 8: of a block that
stops there the claim would be false), and so is that the seven wire rows are items (assumption log 5). -/
def Obligations.EveryRunCompletes : Prop :=
  ∀ (is : List Instr) (s : State), s.Inv →
    ∃ (t : State) (rs : List Response), runOps is s = .next (t, rs) ∧ t.Inv ∧ rs.length = is.length

/-- No operation's result or effect depends on the stale bytes of PRS.BUF (10_state.md R21, 42_frame_parser.md R158). -/
def Obligations.StaleBytesAreNeverSeen : Prop :=
  ∀ (i : Instr) (s t s' : State), ParserInv s → SameButStale s t → exec i s = .next s' →
    ∃ t' : State, exec i t = .next t' ∧ SameButStale s' t'

/-- "the flags change no behaviour" (10_state.md R31): but for the reads of STATUS and ERR, no item's effect or result
depends on ERR or a sticky flag. -/
def Obligations.TheErrorRecordChangesNoBehaviour : Prop :=
  ∀ (i : Instr) (s t s' : State), i ≠ .rdreg 0 → i ≠ .rdreg 1 → SameButErrors s t → exec i s = .next s' →
    ∃ t' : State, exec i t = .next t' ∧ SameButErrors s' t'

/-- Which items write which register, for every row of the table of 10_state.md R29 (with the received frames of assumption
log 5 as FEEDs, and a USERDATA that overflows leaving SEQ.FCB, 44_sequencer.md R217): the parameters and the port are
written by none. -/
def Obligations.RegistersAreWrittenOnlyAsTabled : Prop :=
  ∀ (i : Instr) (s t : State), exec i s = .next t →
    t.cfg = s.cfg ∧ t.port = s.port ∧
    (feedsParser i = false → ∀ a, Memory.read t.buf a = Memory.read s.buf a) ∧
    (feedsParser i = false → i ≠ .abort → i ≠ .reset → t.cnt = s.cnt ∧ t.tot = s.tot) ∧
    (issuesFrameCount i = false → i ≠ .reset → t.fcb = s.fcb) ∧
    (i ≠ .reset → (∀ v, i ≠ .wrder v) → t.der = s.der) ∧
    (i ≠ .reset → (∀ v, i ≠ .wrpm v) → t.dirpm = s.dirpm) ∧
    (feedsParser i = false → (∀ m, i ≠ .parse m) → (∀ x, i ≠ .varbld x) → (∀ x, i ≠ .userdata x) → i ≠ .errclr → i ≠ .reset →
      t.err = s.err ∧ t.eBsb = s.eBsb ∧ t.eLen = s.eLen ∧ t.eChk = s.eChk ∧ t.eEnd = s.eEnd ∧ t.eBld = s.eBld)
end

