-- ==== Sys2Proof/Laws/Operands.lean ====
section
/-! SUPPORT. The packings as numbers, their inverses, and the checksum's arithmetic. -/

namespace Sys2Proof.Machine

/-- Concatenation as a number. -/
theorem toNat_append_add {v w : Nat} (x : BitVec v) (y : BitVec w) : (x ++ y).toNat = x.toNat * 2 ^ w + y.toNat := by
  rw [BitVec.toNat_append, ← Nat.shiftLeft_add_eq_or_of_lt y.isLt, Nat.shiftLeft_eq]

/-! ### 16-bit fields -/

@[simp] theorem lo8_toNat (v : BitVec 16) : (lo8 v).toNat = v.toNat % 256 := by
  simp [lo8, BitVec.extractLsb'_toNat]

@[simp] theorem hi8_toNat (v : BitVec 16) : (hi8 v).toNat = v.toNat / 256 := by
  have := v.isLt
  simp [hi8, BitVec.extractLsb'_toNat, Nat.shiftRight_eq_div_pow]
  omega

@[simp] theorem u16le_toNat (lo hi : Byte) : (u16le lo hi).toNat = hi.toNat * 256 + lo.toNat := by
  rw [u16le, toNat_append_add]
  rfl

@[simp] theorem u16le_lo8_hi8 (v : BitVec 16) : u16le (lo8 v) (hi8 v) = v := by
  apply BitVec.eq_of_toNat_eq
  have := v.isLt
  simp
  omega

@[simp] theorem lo8_u16le (lo hi : Byte) : lo8 (u16le lo hi) = lo := by
  apply BitVec.eq_of_toNat_eq
  have := lo.isLt
  simp
  omega

@[simp] theorem hi8_u16le (lo hi : Byte) : hi8 (u16le lo hi) = hi := by
  apply BitVec.eq_of_toNat_eq
  have := lo.isLt
  simp
  omega

/-! ### The control byte and the cause byte -/

theorem packCtrl_toNat (c : Ctrl) :
    (packCtrl c).toNat = 128 * c.res.toNat + 64 * c.prm.toNat + 32 * c.fcb.toNat + 16 * c.fcv.toNat + c.fc.toNat := by
  have h : ∀ res prm fcb fcv : Bit, ∀ fc : BitVec 4,
      (res ++ prm ++ fcb ++ fcv ++ fc).toNat =
        128 * res.toNat + 64 * prm.toNat + 32 * fcb.toNat + 16 * fcv.toNat + fc.toNat := by decide
  exact h c.res c.prm c.fcb c.fcv c.fc

@[simp] theorem unpackCtrl_packCtrl (c : Ctrl) : unpackCtrl (packCtrl c) = c := by
  have h : ∀ res prm fcb fcv : Bit, ∀ fc : BitVec 4,
      unpackCtrl (packCtrl ⟨res, prm, fcb, fcv, fc⟩) = ⟨res, prm, fcb, fcv, fc⟩ := by decide
  exact h c.res c.prm c.fcb c.fcv c.fc

@[simp] theorem packCtrl_unpackCtrl (b : Byte) : packCtrl (unpackCtrl b) = b := by
  revert b
  decide

theorem packCause_toNat (c : Cause) : (packCause c).toNat = 128 * c.t.toNat + 64 * c.pn.toNat + c.cause.toNat := by
  have h : ∀ t pn : Bit, ∀ cause : BitVec 6,
      (t ++ pn ++ cause).toNat = 128 * t.toNat + 64 * pn.toNat + cause.toNat := by decide
  exact h c.t c.pn c.cause

@[simp] theorem unpackCause_packCause (c : Cause) : unpackCause (packCause c) = c := by
  have h : ∀ t pn : Bit, ∀ cause : BitVec 6, unpackCause (packCause ⟨t, pn, cause⟩) = ⟨t, pn, cause⟩ := by decide
  exact h c.t c.pn c.cause

@[simp] theorem packCause_unpackCause (b : Byte) : packCause (unpackCause b) = b := by
  revert b
  decide

/-! ### The compact times -/

@[simp] theorem unpackTime_packTime (f : TimeFields) : unpackTime (packTime f) = f := by
  have h0 : ∀ iv tis : Bit, ∀ minute : BitVec 6, (iv ++ tis ++ minute : Byte).extractLsb' 0 6 = minute ∧
      (iv ++ tis ++ minute : Byte).extractLsb' 6 1 = tis ∧ (iv ++ tis ++ minute : Byte).extractLsb' 7 1 = iv := by decide
  have h1 : ∀ su : Bit, ∀ res1 : BitVec 2, ∀ hour : BitVec 5, (su ++ res1 ++ hour : Byte).extractLsb' 0 5 = hour ∧
      (su ++ res1 ++ hour : Byte).extractLsb' 5 2 = res1 ∧ (su ++ res1 ++ hour : Byte).extractLsb' 7 1 = su := by decide
  have h2 : ∀ dow : BitVec 3, ∀ dom : BitVec 5, (dow ++ dom : Byte).extractLsb' 0 5 = dom ∧
      (dow ++ dom : Byte).extractLsb' 5 3 = dow := by decide
  have h3 : ∀ pti eti : BitVec 2, ∀ month : BitVec 4, (pti ++ eti ++ month : Byte).extractLsb' 0 4 = month ∧
      (pti ++ eti ++ month : Byte).extractLsb' 4 2 = eti ∧ (pti ++ eti ++ month : Byte).extractLsb' 6 2 = pti := by decide
  have h4 : ∀ res2 : Bit, ∀ year : BitVec 7, (res2 ++ year : Byte).extractLsb' 0 7 = year ∧
      (res2 ++ year : Byte).extractLsb' 7 1 = res2 := by decide
  obtain ⟨a1, a2, a3⟩ := h0 f.iv f.tis f.minute
  obtain ⟨b1, b2, b3⟩ := h1 f.su f.res1 f.hour
  obtain ⟨c1, c2⟩ := h2 f.dow f.dom
  obtain ⟨d1, d2, d3⟩ := h3 f.pti f.eti f.month
  obtain ⟨e1, e2⟩ := h4 f.res2 f.year
  simp only [unpackTime, packTime, a1, a2, a3, b1, b2, b3, c1, c2, d1, d2, d3, e1, e2]

@[simp] theorem packTime_unpackTime (t : Bytes5) : packTime (unpackTime t) = t := by
  have h0 : ∀ b : Byte, (b.extractLsb' 7 1 ++ b.extractLsb' 6 1 ++ b.extractLsb' 0 6 : Byte) = b := by decide
  have h1 : ∀ b : Byte, (b.extractLsb' 7 1 ++ b.extractLsb' 5 2 ++ b.extractLsb' 0 5 : Byte) = b := by decide
  have h2 : ∀ b : Byte, (b.extractLsb' 5 3 ++ b.extractLsb' 0 5 : Byte) = b := by decide
  have h3 : ∀ b : Byte, (b.extractLsb' 6 2 ++ b.extractLsb' 4 2 ++ b.extractLsb' 0 4 : Byte) = b := by decide
  have h4 : ∀ b : Byte, (b.extractLsb' 7 1 ++ b.extractLsb' 0 7 : Byte) = b := by decide
  simp only [unpackTime, packTime, h0, h1, h2, h3, h4]

theorem packSecMs_toNat (o : T7Order) (ms : BitVec 10) (sec : BitVec 6) :
    (packSecMs o ms sec).toNat =
      match o with
      | .secLow => sec.toNat + 64 * ms.toNat
      | .msLow => ms.toNat + 1024 * sec.toNat := by
  cases o <;> simp only [packSecMs] <;> rw [toNat_append_add] <;> omega

@[simp] theorem unpackMs_packSecMs (o : T7Order) (ms : BitVec 10) (sec : BitVec 6) :
    unpackMs o (packSecMs o ms sec) = ms := by
  apply BitVec.eq_of_toNat_eq
  have h1 := ms.isLt
  have h2 := sec.isLt
  have h := packSecMs_toNat o ms sec
  cases o <;> simp only [unpackMs, BitVec.extractLsb'_toNat, Nat.shiftRight_eq_div_pow, h] <;> omega

@[simp] theorem unpackSec_packSecMs (o : T7Order) (ms : BitVec 10) (sec : BitVec 6) :
    unpackSec o (packSecMs o ms sec) = sec := by
  apply BitVec.eq_of_toNat_eq
  have h1 := ms.isLt
  have h2 := sec.isLt
  have h := packSecMs_toNat o ms sec
  cases o <;> simp only [unpackSec, BitVec.extractLsb'_toNat, Nat.shiftRight_eq_div_pow, h] <;> omega

@[simp] theorem packSecMs_unpack (o : T7Order) (w : BitVec 16) : packSecMs o (unpackMs o w) (unpackSec o w) = w := by
  apply BitVec.eq_of_toNat_eq
  have h := w.isLt
  rw [packSecMs_toNat]
  cases o <;> simp only [unpackMs, unpackSec, BitVec.extractLsb'_toNat, Nat.shiftRight_eq_div_pow] <;> omega

@[simp] theorem u16le_packTime7 (o : T7Order) (ms : BitVec 10) (sec : BitVec 6) (f : TimeFields) :
    u16le (packTime7 o ms sec f).b0 (packTime7 o ms sec f).b1 = packSecMs o ms sec := by
  simp [packTime7]

@[simp] theorem packTime7_rest (o : T7Order) (ms : BitVec 10) (sec : BitVec 6) (f : TimeFields) :
    (packTime7 o ms sec f).rest = packTime f := rfl

/-- A day and a month that are not 0 are returned as they stand (43_time_codec.md R184). -/
theorem substituteZero_of_nonzero {f : TimeFields} (hd : f.dom ≠ 0) (hm : f.month ≠ 0) : substituteZero f = f := by
  rw [substituteZero, if_neg hd, if_neg hm]

theorem yearFull_toNat (f : TimeFields) : (yearFull f).toNat = 2000 + f.year.toNat := by
  have := f.year.isLt
  simp only [yearFull, yearBase, BitVec.toNat_add, BitVec.toNat_setWidth, BitVec.toNat_ofNat]
  omega

/-! ### The checksum -/

theorem foldl_add_eq (s : List Byte) (a : Byte) : s.foldl (· + ·) a = a + sum8 s := by
  unfold sum8
  induction s generalizing a with
  | nil => simp
  | cons b s ih =>
    simp only [List.foldl_cons]
    rw [ih, ih (0 + b)]
    simp [BitVec.add_assoc]

@[simp] theorem sum8_nil : sum8 [] = 0 := rfl

@[simp] theorem sum8_cons (b : Byte) (s : List Byte) : sum8 (b :: s) = b + sum8 s := by
  rw [sum8, List.foldl_cons, foldl_add_eq]
  simp

@[simp] theorem sum8_append (s t : List Byte) : sum8 (s ++ t) = sum8 s + sum8 t := by
  induction s with
  | nil => simp
  | cons b s ih => simp [ih, BitVec.add_assoc]

/-- The checksum as a sum of numbers. -/
theorem sum8_eq_ofNat (s : List Byte) : sum8 s = BitVec.ofNat 8 (s.map BitVec.toNat).sum := by
  induction s with
  | nil => rfl
  | cons b s ih => simp [ih, BitVec.ofNat_add]

/-! ### Lengths -/

@[simp] theorem bytes5List_length (t : Bytes5) : (bytes5List t).length = 5 := rfl

@[simp] theorem bytes7List_length (t : Bytes7) : (bytes7List t).length = 7 := rfl

@[simp] theorem buildFixed_length (x : FixFields) : (buildFixed x).length = 6 := rfl

@[simp] theorem varHeader_length (x : VarFields) : (varHeader x).length = 9 := rfl

@[simp] theorem varFrameBytes_length (x : VarFields) : (varFrameBytes x).length = x.data.length + 15 := by
  simp [varFrameBytes]
  omega

theorem declaredLength_toNat {data : List Byte} (h : data.length ≤ maxData) :
    (declaredLength data).toNat = 9 + data.length := by
  simp only [maxData] at h
  simp only [declaredLength, hdrOverhead, BitVec.toNat_ofNat]
  omega

end Sys2Proof.Machine
end

