-- ==== Sys2Proof/Laws/Decode.lean ====
section
/-! SUPPORT. Each reader of the port gives back what the writer beside it put. -/

namespace Sys2Proof

open Machine

@[simp] theorem bind_ok {ε α β : Type} (a : α) (f : α → Except ε β) : (Except.ok a >>= f) = f a := rfl

@[simp] theorem bind_error {ε α β : Type} (e : ε) (f : α → Except ε β) : (Except.error e >>= f) = .error e := rfl

theorem takeNum8_putNum8 {w : Nat} (hw : w ≤ 8) (v : BitVec w) (r : List Byte) :
    takeNum8 w (putNum8 v ++ r) = .ok (v, r) := by
  have h8 : 2 ^ w ≤ 2 ^ 8 := Nat.pow_le_pow_right (by omega) hw
  have hlt : v.toNat < 2 ^ 8 := Nat.lt_of_lt_of_le v.isLt h8
  have h : (v.setWidth 8).toNat = v.toNat := by
    rw [BitVec.toNat_setWidth, Nat.mod_eq_of_lt hlt]
  simp only [putNum8, List.singleton_append, takeNum8, h, v.isLt, if_true]
  congr 2
  apply BitVec.eq_of_toNat_eq
  rw [BitVec.toNat_setWidth, h, Nat.mod_eq_of_lt v.isLt]

theorem takeNum16_putNum16 {w : Nat} (hw : w ≤ 16) (v : BitVec w) (r : List Byte) :
    takeNum16 w (putNum16 v ++ r) = .ok (v, r) := by
  have h16 : 2 ^ w ≤ 2 ^ 16 := Nat.pow_le_pow_right (by omega) hw
  have hlt : v.toNat < 2 ^ 16 := Nat.lt_of_lt_of_le v.isLt h16
  have h : (v.setWidth 16).toNat = v.toNat := by
    rw [BitVec.toNat_setWidth, Nat.mod_eq_of_lt hlt]
  simp only [putNum16, List.cons_append, List.nil_append, takeNum16, u16le_lo8_hi8, h, v.isLt, if_true]
  congr 2
  apply BitVec.eq_of_toNat_eq
  rw [BitVec.toNat_setWidth, h, Nat.mod_eq_of_lt v.isLt]

theorem takeBytes_append (s r : List Byte) : takeBytes s.length (s ++ r) = .ok (s, r) := by
  induction s with
  | nil => rfl
  | cons b s ih => simp [takeBytes, ih]

theorem takeSeq_putSeq {s : List Byte} (h : seqFits s = true) (r : List Byte) : takeSeq (putSeq s ++ r) = .ok (s, r) := by
  have hl : s.length ≤ 65535 := by simpa [seqFits, maxSeq] using h
  have hn : (BitVec.ofNat 16 s.length).toNat = s.length := by
    rw [BitVec.toNat_ofNat]
    omega
  simp only [takeSeq, putSeq, List.append_assoc, takeNum16_putNum16 (Nat.le_refl 16), bind_ok, hn, takeBytes_append]

theorem takeCtrl_putCtrl (c : Ctrl) (r : List Byte) : takeCtrl (putCtrl c ++ r) = .ok (c, r) := by
  simp only [takeCtrl, putCtrl, List.append_assoc, takeNum8_putNum8 (by decide : 1 ≤ 8), takeNum8_putNum8 (by decide : 4 ≤ 8),
    bind_ok]

theorem takeCause_putCause (c : Cause) (r : List Byte) : takeCause (putCause c ++ r) = .ok (c, r) := by
  simp only [takeCause, putCause, List.append_assoc, takeNum8_putNum8 (by decide : 1 ≤ 8),
    takeNum8_putNum8 (by decide : 6 ≤ 8), bind_ok]

theorem takeTime_putTime (f : TimeFields) (r : List Byte) : takeTime (putTime f ++ r) = .ok (f, r) := by
  simp only [takeTime, putTime, List.append_assoc, takeNum8_putNum8 (by decide : 1 ≤ 8), takeNum8_putNum8 (by decide : 2 ≤ 8),
    takeNum8_putNum8 (by decide : 3 ≤ 8), takeNum8_putNum8 (by decide : 4 ≤ 8), takeNum8_putNum8 (by decide : 5 ≤ 8),
    takeNum8_putNum8 (by decide : 6 ≤ 8), takeNum8_putNum8 (by decide : 7 ≤ 8), bind_ok]

theorem takeVarFields_putVarFields {x : VarFields} (h : seqFits x.data = true) (r : List Byte) :
    takeVarFields (putVarFields x ++ r) = .ok (x, r) := by
  simp only [takeVarFields, putVarFields, List.append_assoc, takeCtrl_putCtrl, takeNum16_putNum16 (Nat.le_refl 16),
    takeNum8_putNum8 (Nat.le_refl 8), takeCause_putCause, takeSeq_putSeq h, bind_ok]

theorem takeUserFields_putUserFields {x : UserFields} (h : seqFits x.data = true) (r : List Byte) :
    takeUserFields (putUserFields x ++ r) = .ok (x, r) := by
  simp only [takeUserFields, putUserFields, List.append_assoc, takeNum8_putNum8 (Nat.le_refl 8), takeCause_putCause,
    takeSeq_putSeq h, bind_ok]

theorem takeBytes5_bytes5List (t : Bytes5) (r : List Byte) : takeBytes5 (bytes5List t ++ r) = .ok (t, r) := rfl

theorem takeBytes7_bytes7List (t : Bytes7) (r : List Byte) : takeBytes7 (bytes7List t ++ r) = .ok (t, r) := rfl

theorem takeWireFixed_fixedFrameBytes (x : FixFields) (cs : Byte) (r : List Byte) :
    takeWireFixed (fixedFrameBytes x cs ++ r) = .ok ((x, cs), r) := by
  simp [takeWireFixed, fixedFrameBytes]

@[simp] theorem takeNum8_byte (b : Byte) (r : List Byte) : takeNum8 8 (b :: r) = .ok (b, r) := by
  have h : b.toNat < 256 := b.isLt
  simp [takeNum8, h]

theorem decodeWireVar_varHeadBytes (l : Byte) (c : Ctrl) (addr : Address) (tid vsq : Byte) (cot : Cause) (pm : Address)
    (ra : Byte) (r : List Byte) :
    decodeWireVar (varHeadBytes l c addr tid vsq cot pm ra ++ r) =
      .ok (.wireVariableFrameHead l c addr tid vsq cot pm ra, r) := by
  simp [decodeWireVar, varHeadBytes]

end Sys2Proof
end

