-- ==== Sys2Proof/Laws/Memory.lean ====
section
/-! SUPPORT. The parser buffer: a read after a write, and the canonical form every write keeps. -/

namespace Sys2Proof.Machine

/-- No entry of a list that rises from above `i` is at `i`. -/
theorem Memory.read_below {lo : Nat} {m : List Host.Cell} (h : Memory.risingFrom lo m = true) {i : Nat} (hi : i < lo) :
    Memory.read m i = Memory.blank := by
  induction m generalizing lo with
  | nil => rfl
  | cons c m ih =>
    obtain ⟨k, v⟩ := c
    simp only [Memory.risingFrom, Bool.and_eq_true, decide_eq_true_eq] at h
    obtain ⟨⟨⟨hlo, -⟩, -⟩, hm⟩ := h
    have hk : k ≠ i := by omega
    simp only [Memory.read, if_neg hk]
    exact ih hm (by omega)

/-- A list that rises from `lo` rises from every lower index. -/
theorem Memory.risingFrom_mono {lo lo' : Nat} {m : List Host.Cell} (h : Memory.risingFrom lo m = true) (hl : lo' ≤ lo) :
    Memory.risingFrom lo' m = true := by
  cases m with
  | nil => rfl
  | cons c m =>
    obtain ⟨k, v⟩ := c
    simp only [Memory.risingFrom, Bool.and_eq_true, decide_eq_true_eq] at h ⊢
    obtain ⟨⟨⟨hlo, hb⟩, hv⟩, hm⟩ := h
    exact ⟨⟨⟨by omega, hb⟩, hv⟩, hm⟩

theorem Memory.read_put (m : List Host.Cell) (i : Nat) (v : Byte) (j : Nat) :
    Memory.read (Memory.put m i v) j = if j = i then v else Memory.read m j := by
  induction m with
  | nil => simp only [Memory.put, Memory.read]; grind
  | cons c m ih =>
    obtain ⟨k, w⟩ := c
    simp only [Memory.put]
    split
    · simp only [Memory.read]; grind
    · split <;> simp only [Memory.read] <;> grind

theorem Memory.read_erase (m : List Host.Cell) (i j : Nat) :
    Memory.read (Memory.erase m i) j = if j = i then Memory.blank else Memory.read m j := by
  induction m with
  | nil => simp [Memory.erase, Memory.read]
  | cons c m ih =>
    obtain ⟨k, w⟩ := c
    simp only [Memory.erase]
    split <;> simp only [Memory.read] <;> grind

/-- Reading after a write: the byte written at its index, what stood there elsewhere. -/
theorem Memory.read_write (m : List Host.Cell) (i : Nat) (v : Byte) (j : Nat) :
    Memory.read (Memory.write m i v) j = if j = i then v else Memory.read m j := by
  unfold Memory.write
  split
  · next hv => rw [Memory.read_erase, hv]
  · exact Memory.read_put m i v j

theorem Memory.risingFrom_put {lo : Nat} {m : List Host.Cell} (h : Memory.risingFrom lo m = true) {i : Nat} (hlo : lo ≤ i)
    (hi : i < bufSize) {v : Byte} (hv : v ≠ Memory.blank) : Memory.risingFrom lo (Memory.put m i v) = true := by
  induction m generalizing lo with
  | nil => simp [Memory.put, Memory.risingFrom, hlo, hi, hv]
  | cons c m ih =>
    obtain ⟨k, w⟩ := c
    simp only [Memory.risingFrom, Bool.and_eq_true, decide_eq_true_eq] at h
    obtain ⟨⟨⟨hk, hkb⟩, hw⟩, hm⟩ := h
    simp only [Memory.put]
    split
    · next hik =>
      have hik' : i + 1 ≤ k := hik
      simp [Memory.risingFrom, hlo, hi, hv, hik', hkb, hw, hm]
    · split
      · next hne heq =>
        subst heq
        simp [Memory.risingFrom, hlo, hi, hv, hm]
      · next hne hne' =>
        have : k + 1 ≤ i := by omega
        simp [Memory.risingFrom, hk, hkb, hw, ih hm this]

theorem Memory.risingFrom_erase {lo : Nat} {m : List Host.Cell} (h : Memory.risingFrom lo m = true) (i : Nat) :
    Memory.risingFrom lo (Memory.erase m i) = true := by
  induction m generalizing lo with
  | nil => rfl
  | cons c m ih =>
    obtain ⟨k, w⟩ := c
    simp only [Memory.risingFrom, Bool.and_eq_true, decide_eq_true_eq] at h
    obtain ⟨⟨⟨hk, hkb⟩, hw⟩, hm⟩ := h
    simp only [Memory.erase]
    split
    · exact Memory.risingFrom_mono (ih hm) (by omega)
    · simp [Memory.risingFrom, hk, hkb, hw, ih hm]

/-- Every write inside the buffer keeps the canonical form. -/
theorem Memory.wf_write {m : List Host.Cell} (h : Memory.wf m = true) {i : Nat} (hi : i < bufSize) (v : Byte) :
    Memory.wf (Memory.write m i v) = true := by
  unfold Memory.write
  split
  · exact Memory.risingFrom_erase h i
  · next hv => exact Memory.risingFrom_put h (Nat.zero_le i) hi hv

/-- Two canonical buffers that read alike everywhere are the same list. -/
theorem Memory.risingFrom_ext {lo : Nat} {m m' : List Host.Cell} (h : Memory.risingFrom lo m = true)
    (h' : Memory.risingFrom lo m' = true) (hr : ∀ i, Memory.read m i = Memory.read m' i) : m = m' := by
  induction m generalizing lo m' with
  | nil =>
    cases m' with
    | nil => rfl
    | cons c m' =>
      obtain ⟨k, w⟩ := c
      have := hr k
      simp only [Memory.risingFrom, Bool.and_eq_true, decide_eq_true_eq] at h'
      simp [Memory.read] at this
      grind
  | cons c m ih =>
    obtain ⟨k, w⟩ := c
    have h0 := h
    simp only [Memory.risingFrom, Bool.and_eq_true, decide_eq_true_eq] at h
    obtain ⟨⟨⟨hk, -⟩, hw⟩, hm⟩ := h
    cases m' with
    | nil =>
      have := hr k
      simp [Memory.read] at this
      grind
    | cons c' m' =>
      obtain ⟨k', w'⟩ := c'
      simp only [Memory.risingFrom, Bool.and_eq_true, decide_eq_true_eq] at h'
      obtain ⟨⟨⟨hk', -⟩, hw'⟩, hm'⟩ := h'
      have hkk : k = k' := by
        rcases Nat.lt_trichotomy k k' with hlt | heq | hgt
        · have h1 := hr k
          have h2 : Memory.read m' k = Memory.blank := Memory.read_below hm' (by omega)
          simp only [Memory.read] at h1
          grind
        · exact heq
        · have h1 := hr k'
          have h2 : Memory.read m k' = Memory.blank := Memory.read_below hm (by omega)
          simp only [Memory.read] at h1
          grind
      subst hkk
      have hww : w = w' := by simpa [Memory.read] using hr k
      subst hww
      congr 1
      refine ih hm hm' fun i => ?_
      by_cases hik : k = i
      · subst hik
        rw [Memory.read_below hm (by omega), Memory.read_below hm' (by omega)]
      · simpa [Memory.read, hik] using hr i

theorem Memory.wf_ext {m m' : List Host.Cell} (h : Memory.wf m = true) (h' : Memory.wf m' = true)
    (hr : ∀ i, Memory.read m i = Memory.read m' i) : m = m' :=
  Memory.risingFrom_ext h h' hr

@[simp] theorem Memory.length_slice (m : List Host.Cell) (i n : Nat) : (Memory.slice m i n).length = n := by
  induction n generalizing i with
  | zero => rfl
  | succ n ih => simp [Memory.slice, ih]

/-- A byte of a slice is the byte of the buffer at its index. -/
theorem Memory.getD_slice (m : List Host.Cell) (i n k : Nat) (hk : k < n) :
    (Memory.slice m i n).getD k 0 = Memory.read m (i + k) := by
  induction n generalizing i k with
  | zero => omega
  | succ n ih =>
    cases k with
    | zero => rfl
    | succ k =>
      have := ih (i + 1) k (by omega)
      simp only [Memory.slice, List.getD_cons_succ, this]
      congr 1
      omega

theorem Memory.slice_congr {m m' : List Host.Cell} {i n : Nat}
    (h : ∀ k, i ≤ k → k < i + n → Memory.read m k = Memory.read m' k) : Memory.slice m i n = Memory.slice m' i n := by
  induction n generalizing i with
  | zero => rfl
  | succ n ih =>
    simp only [Memory.slice, h i (Nat.le_refl i) (by omega)]
    rw [ih fun k hk hk' => h k (by omega) (by omega)]

theorem Memory.slice_eq_map (m : List Host.Cell) (i n : Nat) :
    Memory.slice m i n = (List.range n).map fun k => Memory.read m (i + k) := by
  refine List.ext_getElem (by simp) fun k h1 h2 => ?_
  have := Memory.getD_slice m i n k (by simpa using h1)
  simp only [List.getElem_map, List.getElem_range]
  rw [← this, List.getD_eq_getElem _ _ h1]

end Sys2Proof.Machine
end

