-- ==== Sys2Proof/Laws/State.lean ====
section
/-! SUPPORT. One lemma for each field of State under each named update, so that no proof unfolds a record update. -/

namespace Sys2Proof.Machine

/-! ### `respond` -/

@[simp] theorem respond_cfg (s : State) (r : Response) : (s.respond r).cfg = s.cfg := rfl

@[simp] theorem respond_buf (s : State) (r : Response) : (s.respond r).buf = s.buf := rfl

@[simp] theorem respond_cnt (s : State) (r : Response) : (s.respond r).cnt = s.cnt := rfl

@[simp] theorem respond_tot (s : State) (r : Response) : (s.respond r).tot = s.tot := rfl

@[simp] theorem respond_fcb (s : State) (r : Response) : (s.respond r).fcb = s.fcb := rfl

@[simp] theorem respond_der (s : State) (r : Response) : (s.respond r).der = s.der := rfl

@[simp] theorem respond_dirpm (s : State) (r : Response) : (s.respond r).dirpm = s.dirpm := rfl

@[simp] theorem respond_err (s : State) (r : Response) : (s.respond r).err = s.err := rfl

@[simp] theorem respond_eBsb (s : State) (r : Response) : (s.respond r).eBsb = s.eBsb := rfl

@[simp] theorem respond_eLen (s : State) (r : Response) : (s.respond r).eLen = s.eLen := rfl

@[simp] theorem respond_eChk (s : State) (r : Response) : (s.respond r).eChk = s.eChk := rfl

@[simp] theorem respond_eEnd (s : State) (r : Response) : (s.respond r).eEnd = s.eEnd := rfl

@[simp] theorem respond_eBld (s : State) (r : Response) : (s.respond r).eBld = s.eBld := rfl

@[simp] theorem respond_port (s : State) (r : Response) : (s.respond r).port = s.port := rfl

@[simp] theorem respond_response (s : State) (r : Response) : (s.respond r).response = r := rfl

/-! ### `answer` -/

@[simp] theorem answer_cfg (s : State) (r : Result) : (s.answer r).cfg = s.cfg := rfl

@[simp] theorem answer_buf (s : State) (r : Result) : (s.answer r).buf = s.buf := rfl

@[simp] theorem answer_cnt (s : State) (r : Result) : (s.answer r).cnt = s.cnt := rfl

@[simp] theorem answer_tot (s : State) (r : Result) : (s.answer r).tot = s.tot := rfl

@[simp] theorem answer_fcb (s : State) (r : Result) : (s.answer r).fcb = s.fcb := rfl

@[simp] theorem answer_der (s : State) (r : Result) : (s.answer r).der = s.der := rfl

@[simp] theorem answer_dirpm (s : State) (r : Result) : (s.answer r).dirpm = s.dirpm := rfl

@[simp] theorem answer_err (s : State) (r : Result) : (s.answer r).err = s.err := rfl

@[simp] theorem answer_eBsb (s : State) (r : Result) : (s.answer r).eBsb = s.eBsb := rfl

@[simp] theorem answer_eLen (s : State) (r : Result) : (s.answer r).eLen = s.eLen := rfl

@[simp] theorem answer_eChk (s : State) (r : Result) : (s.answer r).eChk = s.eChk := rfl

@[simp] theorem answer_eEnd (s : State) (r : Result) : (s.answer r).eEnd = s.eEnd := rfl

@[simp] theorem answer_eBld (s : State) (r : Result) : (s.answer r).eBld = s.eBld := rfl

@[simp] theorem answer_port (s : State) (r : Result) : (s.answer r).port = s.port := rfl

@[simp] theorem answer_response (s : State) (r : Result) : (s.answer r).response = .result r := rfl

/-! ### `giveValue` -/

@[simp] theorem giveValue_cfg (s : State) (v : Value) : (s.giveValue v).cfg = s.cfg := rfl

@[simp] theorem giveValue_buf (s : State) (v : Value) : (s.giveValue v).buf = s.buf := rfl

@[simp] theorem giveValue_cnt (s : State) (v : Value) : (s.giveValue v).cnt = s.cnt := rfl

@[simp] theorem giveValue_tot (s : State) (v : Value) : (s.giveValue v).tot = s.tot := rfl

@[simp] theorem giveValue_fcb (s : State) (v : Value) : (s.giveValue v).fcb = s.fcb := rfl

@[simp] theorem giveValue_der (s : State) (v : Value) : (s.giveValue v).der = s.der := rfl

@[simp] theorem giveValue_dirpm (s : State) (v : Value) : (s.giveValue v).dirpm = s.dirpm := rfl

@[simp] theorem giveValue_err (s : State) (v : Value) : (s.giveValue v).err = s.err := rfl

@[simp] theorem giveValue_eBsb (s : State) (v : Value) : (s.giveValue v).eBsb = s.eBsb := rfl

@[simp] theorem giveValue_eLen (s : State) (v : Value) : (s.giveValue v).eLen = s.eLen := rfl

@[simp] theorem giveValue_eChk (s : State) (v : Value) : (s.giveValue v).eChk = s.eChk := rfl

@[simp] theorem giveValue_eEnd (s : State) (v : Value) : (s.giveValue v).eEnd = s.eEnd := rfl

@[simp] theorem giveValue_eBld (s : State) (v : Value) : (s.giveValue v).eBld = s.eBld := rfl

@[simp] theorem giveValue_port (s : State) (v : Value) : (s.giveValue v).port = s.port := rfl

@[simp] theorem giveValue_response (s : State) (v : Value) : (s.giveValue v).response = .result (.value v) := rfl

/-! ### `idle` -/

@[simp] theorem idle_cfg (s : State) : (s.idle).cfg = s.cfg := rfl

@[simp] theorem idle_buf (s : State) : (s.idle).buf = s.buf := rfl

@[simp] theorem idle_cnt (s : State) : (s.idle).cnt = 0 := rfl

@[simp] theorem idle_tot (s : State) : (s.idle).tot = 0 := rfl

@[simp] theorem idle_fcb (s : State) : (s.idle).fcb = s.fcb := rfl

@[simp] theorem idle_der (s : State) : (s.idle).der = s.der := rfl

@[simp] theorem idle_dirpm (s : State) : (s.idle).dirpm = s.dirpm := rfl

@[simp] theorem idle_err (s : State) : (s.idle).err = s.err := rfl

@[simp] theorem idle_eBsb (s : State) : (s.idle).eBsb = s.eBsb := rfl

@[simp] theorem idle_eLen (s : State) : (s.idle).eLen = s.eLen := rfl

@[simp] theorem idle_eChk (s : State) : (s.idle).eChk = s.eChk := rfl

@[simp] theorem idle_eEnd (s : State) : (s.idle).eEnd = s.eEnd := rfl

@[simp] theorem idle_eBld (s : State) : (s.idle).eBld = s.eBld := rfl

@[simp] theorem idle_port (s : State) : (s.idle).port = s.port := rfl

@[simp] theorem idle_response (s : State) : (s.idle).response = s.response := rfl

/-! ### `toggleFcb` -/

@[simp] theorem toggleFcb_cfg (s : State) : (s.toggleFcb).cfg = s.cfg := rfl

@[simp] theorem toggleFcb_buf (s : State) : (s.toggleFcb).buf = s.buf := rfl

@[simp] theorem toggleFcb_cnt (s : State) : (s.toggleFcb).cnt = s.cnt := rfl

@[simp] theorem toggleFcb_tot (s : State) : (s.toggleFcb).tot = s.tot := rfl

@[simp] theorem toggleFcb_fcb (s : State) : (s.toggleFcb).fcb = s.fcb ^^^ 1 := rfl

@[simp] theorem toggleFcb_der (s : State) : (s.toggleFcb).der = s.der := rfl

@[simp] theorem toggleFcb_dirpm (s : State) : (s.toggleFcb).dirpm = s.dirpm := rfl

@[simp] theorem toggleFcb_err (s : State) : (s.toggleFcb).err = s.err := rfl

@[simp] theorem toggleFcb_eBsb (s : State) : (s.toggleFcb).eBsb = s.eBsb := rfl

@[simp] theorem toggleFcb_eLen (s : State) : (s.toggleFcb).eLen = s.eLen := rfl

@[simp] theorem toggleFcb_eChk (s : State) : (s.toggleFcb).eChk = s.eChk := rfl

@[simp] theorem toggleFcb_eEnd (s : State) : (s.toggleFcb).eEnd = s.eEnd := rfl

@[simp] theorem toggleFcb_eBld (s : State) : (s.toggleFcb).eBld = s.eBld := rfl

@[simp] theorem toggleFcb_port (s : State) : (s.toggleFcb).port = s.port := rfl

@[simp] theorem toggleFcb_response (s : State) : (s.toggleFcb).response = s.response := rfl

/-! ### `clearErrors` -/

@[simp] theorem clearErrors_cfg (s : State) : (s.clearErrors).cfg = s.cfg := rfl

@[simp] theorem clearErrors_buf (s : State) : (s.clearErrors).buf = s.buf := rfl

@[simp] theorem clearErrors_cnt (s : State) : (s.clearErrors).cnt = s.cnt := rfl

@[simp] theorem clearErrors_tot (s : State) : (s.clearErrors).tot = s.tot := rfl

@[simp] theorem clearErrors_fcb (s : State) : (s.clearErrors).fcb = s.fcb := rfl

@[simp] theorem clearErrors_der (s : State) : (s.clearErrors).der = s.der := rfl

@[simp] theorem clearErrors_dirpm (s : State) : (s.clearErrors).dirpm = s.dirpm := rfl

@[simp] theorem clearErrors_err (s : State) : (s.clearErrors).err = ErrRecord.clear := rfl

@[simp] theorem clearErrors_eBsb (s : State) : (s.clearErrors).eBsb = 0 := rfl

@[simp] theorem clearErrors_eLen (s : State) : (s.clearErrors).eLen = 0 := rfl

@[simp] theorem clearErrors_eChk (s : State) : (s.clearErrors).eChk = 0 := rfl

@[simp] theorem clearErrors_eEnd (s : State) : (s.clearErrors).eEnd = 0 := rfl

@[simp] theorem clearErrors_eBld (s : State) : (s.clearErrors).eBld = 0 := rfl

@[simp] theorem clearErrors_port (s : State) : (s.clearErrors).port = s.port := rfl

@[simp] theorem clearErrors_response (s : State) : (s.clearErrors).response = s.response := rfl

/-! ### `resetRegisters` -/

@[simp] theorem resetRegisters_cfg (s : State) : (s.resetRegisters).cfg = s.cfg := rfl

@[simp] theorem resetRegisters_buf (s : State) : (s.resetRegisters).buf = s.buf := rfl

@[simp] theorem resetRegisters_cnt (s : State) : (s.resetRegisters).cnt = 0 := rfl

@[simp] theorem resetRegisters_tot (s : State) : (s.resetRegisters).tot = 0 := rfl

@[simp] theorem resetRegisters_fcb (s : State) : (s.resetRegisters).fcb = s.cfg.fcbReset := rfl

@[simp] theorem resetRegisters_der (s : State) : (s.resetRegisters).der = 0 := rfl

@[simp] theorem resetRegisters_dirpm (s : State) : (s.resetRegisters).dirpm = 0 := rfl

@[simp] theorem resetRegisters_err (s : State) : (s.resetRegisters).err = ErrRecord.clear := rfl

@[simp] theorem resetRegisters_eBsb (s : State) : (s.resetRegisters).eBsb = 0 := rfl

@[simp] theorem resetRegisters_eLen (s : State) : (s.resetRegisters).eLen = 0 := rfl

@[simp] theorem resetRegisters_eChk (s : State) : (s.resetRegisters).eChk = 0 := rfl

@[simp] theorem resetRegisters_eEnd (s : State) : (s.resetRegisters).eEnd = 0 := rfl

@[simp] theorem resetRegisters_eBld (s : State) : (s.resetRegisters).eBld = 0 := rfl

@[simp] theorem resetRegisters_port (s : State) : (s.resetRegisters).port = s.port := rfl

@[simp] theorem resetRegisters_response (s : State) : (s.resetRegisters).response = s.response := rfl

/-! ### `refuseCode` -/

@[simp] theorem refuseCode_cfg (s : State) : (s.refuseCode).cfg = s.cfg := rfl

@[simp] theorem refuseCode_buf (s : State) : (s.refuseCode).buf = s.buf := rfl

@[simp] theorem refuseCode_cnt (s : State) : (s.refuseCode).cnt = s.cnt := rfl

@[simp] theorem refuseCode_tot (s : State) : (s.refuseCode).tot = s.tot := rfl

@[simp] theorem refuseCode_fcb (s : State) : (s.refuseCode).fcb = s.fcb := rfl

@[simp] theorem refuseCode_der (s : State) : (s.refuseCode).der = s.der := rfl

@[simp] theorem refuseCode_dirpm (s : State) : (s.refuseCode).dirpm = s.dirpm := rfl

@[simp] theorem refuseCode_err (s : State) : (s.refuseCode).err = s.err := rfl

@[simp] theorem refuseCode_eBsb (s : State) : (s.refuseCode).eBsb = s.eBsb := rfl

@[simp] theorem refuseCode_eLen (s : State) : (s.refuseCode).eLen = s.eLen := rfl

@[simp] theorem refuseCode_eChk (s : State) : (s.refuseCode).eChk = s.eChk := rfl

@[simp] theorem refuseCode_eEnd (s : State) : (s.refuseCode).eEnd = s.eEnd := rfl

@[simp] theorem refuseCode_eBld (s : State) : (s.refuseCode).eBld = s.eBld := rfl

@[simp] theorem refuseCode_port (s : State) : (s.refuseCode).port = s.port := rfl

@[simp] theorem refuseCode_response (s : State) : (s.refuseCode).response = .refused := rfl

/-! ### `setSticky` -/

@[simp] theorem setSticky_cfg (s : State) (e : FrameError) : (s.setSticky e).cfg = s.cfg := by
  cases e <;> rfl

@[simp] theorem setSticky_buf (s : State) (e : FrameError) : (s.setSticky e).buf = s.buf := by
  cases e <;> rfl

@[simp] theorem setSticky_cnt (s : State) (e : FrameError) : (s.setSticky e).cnt = s.cnt := by
  cases e <;> rfl

@[simp] theorem setSticky_tot (s : State) (e : FrameError) : (s.setSticky e).tot = s.tot := by
  cases e <;> rfl

@[simp] theorem setSticky_fcb (s : State) (e : FrameError) : (s.setSticky e).fcb = s.fcb := by
  cases e <;> rfl

@[simp] theorem setSticky_der (s : State) (e : FrameError) : (s.setSticky e).der = s.der := by
  cases e <;> rfl

@[simp] theorem setSticky_dirpm (s : State) (e : FrameError) : (s.setSticky e).dirpm = s.dirpm := by
  cases e <;> rfl

@[simp] theorem setSticky_err (s : State) (e : FrameError) : (s.setSticky e).err = s.err := by
  cases e <;> rfl

@[simp] theorem setSticky_eBsb (s : State) (e : FrameError) : (s.setSticky e).eBsb = if e = .badStartByte then 1 else s.eBsb := by
  cases e <;> rfl

@[simp] theorem setSticky_eLen (s : State) (e : FrameError) : (s.setSticky e).eLen = if e = .lengthMismatch then 1 else s.eLen := by
  cases e <;> rfl

@[simp] theorem setSticky_eChk (s : State) (e : FrameError) : (s.setSticky e).eChk = if e = .checksumMismatch then 1 else s.eChk := by
  cases e <;> rfl

@[simp] theorem setSticky_eEnd (s : State) (e : FrameError) : (s.setSticky e).eEnd = if e = .wrongEndByte then 1 else s.eEnd := by
  cases e <;> rfl

@[simp] theorem setSticky_eBld (s : State) (e : FrameError) : (s.setSticky e).eBld = if e = .buildOverflow then 1 else s.eBld := by
  cases e <;> rfl

@[simp] theorem setSticky_port (s : State) (e : FrameError) : (s.setSticky e).port = s.port := by
  cases e <;> rfl

@[simp] theorem setSticky_response (s : State) (e : FrameError) : (s.setSticky e).response = s.response := by
  cases e <;> rfl

/-! ### `errorEntry` -/

@[simp] theorem errorEntry_cfg (s : State) (r : Raise) : (s.errorEntry r).cfg = s.cfg := by
  simp [State.errorEntry]

@[simp] theorem errorEntry_buf (s : State) (r : Raise) : (s.errorEntry r).buf = s.buf := by
  simp [State.errorEntry]

@[simp] theorem errorEntry_cnt (s : State) (r : Raise) : (s.errorEntry r).cnt = s.cnt := by
  simp [State.errorEntry]

@[simp] theorem errorEntry_tot (s : State) (r : Raise) : (s.errorEntry r).tot = s.tot := by
  simp [State.errorEntry]

@[simp] theorem errorEntry_fcb (s : State) (r : Raise) : (s.errorEntry r).fcb = s.fcb := by
  simp [State.errorEntry]

@[simp] theorem errorEntry_der (s : State) (r : Raise) : (s.errorEntry r).der = s.der := by
  simp [State.errorEntry]

@[simp] theorem errorEntry_dirpm (s : State) (r : Raise) : (s.errorEntry r).dirpm = s.dirpm := by
  simp [State.errorEntry]

@[simp] theorem errorEntry_err (s : State) (r : Raise) : (s.errorEntry r).err = { code := r.error.code, pos := r.pos, got := r.got, exp := r.exp } := by
  simp [State.errorEntry]

@[simp] theorem errorEntry_eBsb (s : State) (r : Raise) : (s.errorEntry r).eBsb = if r.error = .badStartByte then 1 else s.eBsb := by
  simp [State.errorEntry]

@[simp] theorem errorEntry_eLen (s : State) (r : Raise) : (s.errorEntry r).eLen = if r.error = .lengthMismatch then 1 else s.eLen := by
  simp [State.errorEntry]

@[simp] theorem errorEntry_eChk (s : State) (r : Raise) : (s.errorEntry r).eChk = if r.error = .checksumMismatch then 1 else s.eChk := by
  simp [State.errorEntry]

@[simp] theorem errorEntry_eEnd (s : State) (r : Raise) : (s.errorEntry r).eEnd = if r.error = .wrongEndByte then 1 else s.eEnd := by
  simp [State.errorEntry]

@[simp] theorem errorEntry_eBld (s : State) (r : Raise) : (s.errorEntry r).eBld = if r.error = .buildOverflow then 1 else s.eBld := by
  simp [State.errorEntry]

@[simp] theorem errorEntry_port (s : State) (r : Raise) : (s.errorEntry r).port = s.port := by
  simp [State.errorEntry]

@[simp] theorem errorEntry_response (s : State) (r : Raise) : (s.errorEntry r).response = s.response := by
  simp [State.errorEntry]

@[simp] theorem raise_fst (s : State) (r : Raise) : (s.raise r).1 = s.errorEntry r := rfl

@[simp] theorem raise_snd (s : State) (r : Raise) : (s.raise r).2 = .error r.error := rfl

@[simp] theorem conclude_ok (s : State) (v : Value) : s.conclude (.ok v) = (s, .value v) := rfl

@[simp] theorem conclude_error (s : State) (r : Raise) : s.conclude (.error r) = s.raise r := rfl

@[simp] theorem finish_mk (s : State) (r : Result) : finish (s, r) = s.answer r := rfl

/-- Two states with the same fields are the same state. -/
theorem state_ext {s t : State} (hcfg : s.cfg = t.cfg) (hbuf : s.buf = t.buf) (hcnt : s.cnt = t.cnt) (htot : s.tot = t.tot)
    (hfcb : s.fcb = t.fcb) (hder : s.der = t.der) (hdirpm : s.dirpm = t.dirpm) (herr : s.err = t.err)
    (hbsb : s.eBsb = t.eBsb) (hlen : s.eLen = t.eLen) (hchk : s.eChk = t.eChk) (hend : s.eEnd = t.eEnd)
    (hbld : s.eBld = t.eBld) (hport : s.port = t.port) (hresponse : s.response = t.response) : s = t := by
  cases s
  cases t
  simp_all

end Sys2Proof.Machine
end

