-- ==== Sys2Proof/Laws/Feed.lean ====
section
/-! SUPPORT. What a judgement, one FEED and a chunk of FEEDs can do, said once. -/

namespace Sys2Proof.Machine

/-! ### `conclude`: nothing but the error record changes -/

@[simp] theorem conclude_fst_cfg (s : State) (e : Except Raise Value) : (s.conclude e).1.cfg = s.cfg := by
  cases e <;> simp

@[simp] theorem conclude_fst_buf (s : State) (e : Except Raise Value) : (s.conclude e).1.buf = s.buf := by
  cases e <;> simp

@[simp] theorem conclude_fst_cnt (s : State) (e : Except Raise Value) : (s.conclude e).1.cnt = s.cnt := by
  cases e <;> simp

@[simp] theorem conclude_fst_tot (s : State) (e : Except Raise Value) : (s.conclude e).1.tot = s.tot := by
  cases e <;> simp

@[simp] theorem conclude_fst_fcb (s : State) (e : Except Raise Value) : (s.conclude e).1.fcb = s.fcb := by
  cases e <;> simp

@[simp] theorem conclude_fst_der (s : State) (e : Except Raise Value) : (s.conclude e).1.der = s.der := by
  cases e <;> simp

@[simp] theorem conclude_fst_dirpm (s : State) (e : Except Raise Value) : (s.conclude e).1.dirpm = s.dirpm := by
  cases e <;> simp

@[simp] theorem conclude_fst_port (s : State) (e : Except Raise Value) : (s.conclude e).1.port = s.port := by
  cases e <;> simp

/-- A judgement that ends in an error enters it, and one that ends in a value changes nothing. -/
theorem conclude_cases (s : State) (e : Except Raise Value) :
    (∃ v, e = .ok v ∧ s.conclude e = (s, .value v)) ∨
      ∃ r, e = .error r ∧ s.conclude e = (s.errorEntry r, .error r.error) := by
  cases e with
  | ok v => exact .inl ⟨v, rfl, rfl⟩
  | error r => exact .inr ⟨r, rfl, rfl⟩

@[simp] theorem finish_conclude_ok (s : State) (v : Value) : finish (s.conclude (.ok v)) = s.giveValue v := rfl

@[simp] theorem finish_conclude_error (s : State) (r : Raise) :
    finish (s.conclude (.error r)) = (s.errorEntry r).answer (.error r.error) := rfl

@[simp] theorem finish_raise (s : State) (r : Raise) : finish (s.raise r) = (s.errorEntry r).answer (.error r.error) := rfl

/-! ### `storeByte` -/

theorem storeByte_eq (b : Byte) (s : State) :
    storeByte b s = { s with
      buf := Memory.write s.buf s.cnt.toNat b
      cnt := s.cnt + 1
      tot := if Memory.read (Memory.write s.buf s.cnt.toNat b) 0 = startVar ∧ s.cnt + 1 = 2 then b.setWidth 9 + 6
        else s.tot } := by
  simp only [storeByte]
  split <;> rfl

/-! ### One FEED -/

theorem feedOne_idle {b : Byte} {s : State} (h : s.cnt = 0) : feedOne b s = .ok (feedIdle b s) := by
  simp [feedOne, h]

theorem feedOne_body {b : Byte} {s : State} (h : s.cnt ≠ 0) (hb : s.cnt.toNat < bufSize) :
    feedOne b s = .ok (feedBody b s) := by
  rw [feedOne, if_neg h, if_pos hb]

theorem feedOne_openFixed {s : State} (h : s.cnt = 0) :
    feedOne startFixed s = .ok ({ s with buf := Memory.write s.buf 0 startFixed, cnt := 1, tot := 6 }, .none) := by
  rw [feedOne_idle h, feedIdle, if_pos rfl]

theorem feedOne_openVar {s : State} (h : s.cnt = 0) :
    feedOne startVar s = .ok ({ s with buf := Memory.write s.buf 0 startVar, cnt := 1, tot := 0 }, .none) := by
  rw [feedOne_idle h, feedIdle, if_neg (by decide), if_pos rfl]

theorem feedOne_badStart {b : Byte} {s : State} (h : s.cnt = 0) (hf : b ≠ startFixed) (hv : b ≠ startVar) :
    feedOne b s = .ok (s.raise ⟨.badStartByte, 0, b, 0⟩) := by
  rw [feedOne_idle h, feedIdle, if_neg hf, if_neg hv]

theorem cnt_toNat_succ {s : State} (h : s.cnt.toNat ≤ 260) : (s.cnt + 1).toNat = s.cnt.toNat + 1 := by
  rw [BitVec.toNat_add]
  simp
  omega

/-- Inside a frame the byte stored leaves `BUF[0]` alone. -/
theorem read_zero_write {s : State} (h : s.cnt ≠ 0) (b : Byte) :
    Memory.read (Memory.write s.buf s.cnt.toNat b) 0 = Memory.read s.buf 0 := by
  rw [Memory.read_write, if_neg]
  intro e
  exact h (BitVec.eq_of_toNat_eq (by simpa using e.symm))

/-- The second byte of a variable frame is its declared length (42_frame_parser.md R163, the row VARLEN). -/
theorem feedOne_length {s : State} (hm : Memory.read s.buf 0 = startVar) (hc : s.cnt = 1) (b : Byte) :
    feedOne b s = .ok ({ s with buf := Memory.write s.buf 1 b, cnt := 2, tot := b.setWidth 9 + 6 }, .none) := by
  have h0 : s.cnt ≠ 0 := by
    rw [hc]
    decide
  have h1 : s.cnt.toNat = 1 := by
    rw [hc]
    rfl
  have hne : (2 : BitVec 9) ≠ b.setWidth 9 + 6 := by
    intro e
    have := congrArg BitVec.toNat e
    have := b.isLt
    simp [BitVec.toNat_add] at *
    omega
  have hw := read_zero_write h0 b
  rw [h1, hm] at hw
  rw [feedOne_body h0 (by rw [h1]; decide), feedBody, storeByte_eq, h1, hw, hc,
    if_pos (⟨rfl, rfl⟩ : startVar = startVar ∧ (1 : BitVec 9) + 1 = 2)]
  exact congrArg Except.ok (if_pos hne)

/-- Inside a frame that is not complete with this byte (42_frame_parser.md R163, the rows `CNT + 1`). -/
theorem feedOne_more {s : State} (h0 : s.cnt ≠ 0) (hb : s.cnt.toNat ≤ 260)
    (hl : ¬(Memory.read s.buf 0 = startVar ∧ s.cnt = 1)) (ht : s.cnt.toNat + 1 ≠ s.tot.toNat) (b : Byte) :
    feedOne b s = .ok ({ s with buf := Memory.write s.buf s.cnt.toNat b, cnt := s.cnt + 1 }, .none) := by
  have hn : ¬(Memory.read s.buf 0 = startVar ∧ s.cnt + 1 = 2) := by
    rintro ⟨hm, hc⟩
    refine hl ⟨hm, BitVec.eq_of_toNat_eq ?_⟩
    have := congrArg BitVec.toNat hc
    rw [cnt_toNat_succ hb] at this
    simpa using this
  have hne : s.cnt + 1 ≠ s.tot := by
    intro e
    rw [← e, cnt_toNat_succ hb] at ht
    exact ht rfl
  rw [feedOne_body h0 (by simp only [bufSize]; omega), feedBody, storeByte_eq, read_zero_write h0, if_neg hn]
  exact congrArg Except.ok (if_pos hne)

/-- The last byte of a frame: the parser leaves the frame and judges it (42_frame_parser.md R152). -/
theorem feedOne_last {s : State} (h0 : s.cnt ≠ 0) (hb : s.cnt.toNat ≤ 260)
    (hl : ¬(Memory.read s.buf 0 = startVar ∧ s.cnt = 1)) (ht : s.cnt.toNat + 1 = s.tot.toNat) (b : Byte) :
    feedOne b s = .ok ({ s with buf := Memory.write s.buf s.cnt.toNat b, cnt := 0, tot := 0 }.conclude
      (judgeBuffer (Memory.write s.buf s.cnt.toNat b))) := by
  have hn : ¬(Memory.read s.buf 0 = startVar ∧ s.cnt + 1 = 2) := by
    rintro ⟨hm, hc⟩
    refine hl ⟨hm, BitVec.eq_of_toNat_eq ?_⟩
    have := congrArg BitVec.toNat hc
    rw [cnt_toNat_succ hb] at this
    simpa using this
  have he : s.cnt + 1 = s.tot := by
    apply BitVec.eq_of_toNat_eq
    rw [cnt_toNat_succ hb, ht]
  rw [feedOne_body h0 (by simp only [bufSize]; omega), feedBody, storeByte_eq, read_zero_write h0, if_neg hn]
  exact congrArg Except.ok (if_neg (not_not.mpr he))

/-! ### The verdict on PRS.BUF -/

theorem byteAt_slice {m : List Host.Cell} {n k : Nat} (h : k < n) : byteAt (Memory.slice m 0 n) k = Memory.read m k := by
  have := Memory.getD_slice m 0 n k h
  simpa [byteAt] using this

theorem judgeBuffer_fixed {m : List Host.Cell} (h : Memory.read m 0 = startFixed) :
    judgeBuffer m = judgeFixed (Memory.slice m 0 6) := by
  rw [judgeBuffer, if_pos h]

theorem judgeBuffer_var {m : List Host.Cell} (h : Memory.read m 0 = startVar) :
    judgeBuffer m = judgeVar (Memory.slice m 0 ((Memory.read m 1).toNat + 6)) := by
  rw [judgeBuffer, if_neg]
  rw [h]
  decide

/-- A part of a slice is a slice. -/
theorem take_drop_slice (m : List Host.Cell) {n i k : Nat} (h : i + k ≤ n) :
    ((Memory.slice m 0 n).drop i).take k = Memory.slice m i k := by
  rw [Memory.slice_eq_map, Memory.slice_eq_map]
  refine List.ext_getElem (by simp; omega) fun j h1 h2 => ?_
  simp

/-- All that one FEED can do. -/
theorem feedOne_cases {b : Byte} {s t : State} {r : Result} (h : feedOne b s = .ok (t, r)) :
    (s.cnt = 0 ∧ b = startFixed ∧ t = { s with buf := Memory.write s.buf 0 b, cnt := 1, tot := 6 } ∧ r = .none) ∨
    (s.cnt = 0 ∧ b = startVar ∧ t = { s with buf := Memory.write s.buf 0 b, cnt := 1, tot := 0 } ∧ r = .none) ∨
    (s.cnt = 0 ∧ b ≠ startFixed ∧ b ≠ startVar ∧ t = s.errorEntry ⟨.badStartByte, 0, b, 0⟩ ∧ r = .error .badStartByte) ∨
    (s.cnt ≠ 0 ∧ s.cnt.toNat < bufSize ∧ (storeByte b s).cnt ≠ (storeByte b s).tot ∧ t = storeByte b s ∧ r = .none) ∨
    (s.cnt ≠ 0 ∧ s.cnt.toNat < bufSize ∧ (storeByte b s).cnt = (storeByte b s).tot ∧
      (t, r) = (storeByte b s).idle.conclude (judgeBuffer (storeByte b s).buf)) := by
  unfold feedOne at h
  split at h
  · next h0 =>
    simp only [feedIdle, Except.ok.injEq] at h
    split at h
    · next hb =>
      simp only [Prod.mk.injEq] at h
      exact .inl ⟨h0, hb, h.1.symm, h.2.symm⟩
    · split at h
      · next hb =>
        simp only [Prod.mk.injEq] at h
        exact .inr (.inl ⟨h0, hb, h.1.symm, h.2.symm⟩)
      · next hb hb' =>
        simp only [State.raise, Prod.mk.injEq] at h
        exact .inr (.inr (.inl ⟨h0, hb, hb', h.1.symm, h.2.symm⟩))
  · next h0 =>
    split at h
    · next hlt =>
      simp only [feedBody, Except.ok.injEq] at h
      split at h
      · next hne =>
        simp only [Prod.mk.injEq] at h
        exact .inr (.inr (.inr (.inl ⟨h0, hlt, hne, h.1.symm, h.2.symm⟩)))
      · next he => exact .inr (.inr (.inr (.inr ⟨h0, hlt, by simpa using he, h.symm⟩)))
    · cases h

/-- FEED faults only at an index outside PRS.BUF. -/
theorem feedOne_error {b : Byte} {s : State} {f : Fault} (h : feedOne b s = .error f) :
    bufSize ≤ s.cnt.toNat ∧ f = .bufferIndex s.cnt.toNat := by
  unfold feedOne at h
  split at h
  · cases h
  · split at h
    · cases h
    · next hlt =>
      simp only [Except.error.injEq] at h
      exact ⟨by omega, h.symm⟩

theorem feedOne_completes {b : Byte} {s : State} (h : s.cnt.toNat < bufSize) : ∃ t r, feedOne b s = .ok (t, r) := by
  cases hf : feedOne b s with
  | ok p => exact ⟨p.1, p.2, rfl⟩
  | error f =>
    have := (feedOne_error hf).1
    omega

/-! ### A chunk -/

/-- A property that every FEED keeps is kept by a chunk. -/
theorem feedAll_keeps (P : State → Prop) (hP : ∀ b s t r, P s → feedOne b s = .ok (t, r) → P t) {bs : List Byte} {s t : State}
    {rs : List Result} (hs : P s) (h : feedAll bs s = .ok (t, rs)) : P t := by
  induction bs generalizing s rs with
  | nil =>
    simp only [feedAll, Except.ok.injEq, Prod.mk.injEq] at h
    exact h.1 ▸ hs
  | cons b bs ih =>
    simp only [feedAll] at h
    cases h1 : feedOne b s with
    | error f => simp [h1] at h
    | ok p =>
      obtain ⟨u, r⟩ := p
      simp only [h1] at h
      cases h2 : feedAll bs u with
      | error f => simp [h2] at h
      | ok q =>
        obtain ⟨v, rs'⟩ := q
        simp only [h2, Except.ok.injEq, Prod.mk.injEq] at h
        obtain ⟨rfl, -⟩ := h
        exact ih (hP b s u r hs h1) h2

/-- Where every FEED of states with a property completes and keeps it, so does a chunk, with one result for each byte. -/
theorem feedAll_completes (P : State → Prop) (hP : ∀ b s, P s → ∃ t r, feedOne b s = .ok (t, r) ∧ P t) (bs : List Byte)
    {s : State} (hs : P s) : ∃ t rs, feedAll bs s = .ok (t, rs) ∧ P t ∧ rs.length = bs.length := by
  induction bs generalizing s with
  | nil => exact ⟨s, [], rfl, hs, rfl⟩
  | cons b bs ih =>
    obtain ⟨t, r, ht, hPt⟩ := hP b s hs
    obtain ⟨u, rs, hu, hPu, hl⟩ := ih hPt
    exact ⟨u, r :: rs, by simp [feedAll, ht, hu], hPu, by simp [hl]⟩

end Sys2Proof.Machine
end

