-- ==== Sys2Proof/Laws/Frame.lean ====
section
/-! SUPPORT. What the judgements of a frame can answer, said once. -/

namespace Sys2Proof.Machine

/-- All that CompleteFixed can answer. -/
theorem judgeFixed_cases (f : List Byte) :
    (byteAt f 4 ≠ sum8 [byteAt f 1, byteAt f 2, byteAt f 3] ∧
      judgeFixed f = .error ⟨.checksumMismatch, 4, byteAt f 4, sum8 [byteAt f 1, byteAt f 2, byteAt f 3]⟩) ∨
    (byteAt f 4 = sum8 [byteAt f 1, byteAt f 2, byteAt f 3] ∧ byteAt f 5 ≠ endByte ∧
      judgeFixed f = .error ⟨.wrongEndByte, 5, byteAt f 5, endByte⟩) ∨
    (byteAt f 4 = sum8 [byteAt f 1, byteAt f 2, byteAt f 3] ∧ byteAt f 5 = endByte ∧
      judgeFixed f = .ok (.fixFrame (fixedValue f))) := by
  unfold judgeFixed
  grind

/-- All that CompleteVar can answer. -/
theorem judgeVar_cases (f : List Byte) (l : Nat) (sum : Byte) (hl : l = (byteAt f 1).toNat)
    (hsum : sum = sum8 ((f.drop 4).take l)) :
    (l < 9 ∧ judgeVar f = .error ⟨.lengthMismatch, 1, byteAt f 1, 9⟩) ∨
    (9 ≤ l ∧ byteAt f 2 ≠ byteAt f 1 ∧ judgeVar f = .error ⟨.lengthMismatch, 2, byteAt f 2, byteAt f 1⟩) ∨
    (9 ≤ l ∧ byteAt f 2 = byteAt f 1 ∧ byteAt f 3 ≠ startVar ∧
      judgeVar f = .error ⟨.badStartByte, 3, byteAt f 3, startVar⟩) ∨
    (9 ≤ l ∧ byteAt f 2 = byteAt f 1 ∧ byteAt f 3 = startVar ∧ byteAt f (l + 4) ≠ sum ∧
      judgeVar f = .error ⟨.checksumMismatch, posOf (l + 4), byteAt f (l + 4), sum⟩) ∨
    (9 ≤ l ∧ byteAt f 2 = byteAt f 1 ∧ byteAt f 3 = startVar ∧ byteAt f (l + 4) = sum ∧ byteAt f (l + 5) ≠ endByte ∧
      judgeVar f = .error ⟨.wrongEndByte, posOf (l + 5), byteAt f (l + 5), endByte⟩) ∨
    (9 ≤ l ∧ byteAt f 2 = byteAt f 1 ∧ byteAt f 3 = startVar ∧ byteAt f (l + 4) = sum ∧ byteAt f (l + 5) = endByte ∧
      judgeVar f = .ok (.varFrame (varValue f l))) := by
  subst hl hsum
  simp only [judgeVar]
  by_cases h1 : (byteAt f 1).toNat < 9
  · exact .inl ⟨h1, if_pos h1⟩
  · rw [if_neg h1]
    have h1' : 9 ≤ (byteAt f 1).toNat := by omega
    by_cases h2 : byteAt f 2 ≠ byteAt f 1
    · exact .inr (.inl ⟨h1', h2, if_pos h2⟩)
    · rw [if_neg h2]
      have h2' := not_not.mp h2
      by_cases h3 : byteAt f 3 ≠ startVar
      · exact .inr (.inr (.inl ⟨h1', h2', h3, if_pos h3⟩))
      · rw [if_neg h3]
        have h3' := not_not.mp h3
        by_cases h4 : byteAt f ((byteAt f 1).toNat + 4) ≠ sum8 ((f.drop 4).take (byteAt f 1).toNat)
        · exact .inr (.inr (.inr (.inl ⟨h1', h2', h3', h4, if_pos h4⟩)))
        · rw [if_neg h4]
          have h4' := not_not.mp h4
          by_cases h5 : byteAt f ((byteAt f 1).toNat + 5) ≠ endByte
          · exact .inr (.inr (.inr (.inr (.inl ⟨h1', h2', h3', h4', h5, if_pos h5⟩))))
          · exact .inr (.inr (.inr (.inr (.inr ⟨h1', h2', h3', h4', not_not.mp h5, if_neg h5⟩))))

/-- A judgement of a frame never raises BuildOverflow. -/
theorem judgeFixed_error {f : List Byte} {r : Raise} (h : judgeFixed f = .error r) :
    r.error = .checksumMismatch ∨ r.error = .wrongEndByte := by
  rcases judgeFixed_cases f with ⟨-, e⟩ | ⟨-, -, e⟩ | ⟨-, -, e⟩ <;> rw [e] at h <;> grind

theorem judgeVar_error {f : List Byte} {r : Raise} (h : judgeVar f = .error r) : r.error ≠ .buildOverflow := by
  rcases judgeVar_cases f _ _ rfl rfl with ⟨-, e⟩ | ⟨-, -, e⟩ | ⟨-, -, -, e⟩ | ⟨-, -, -, -, e⟩ | ⟨-, -, -, -, -, e⟩ |
    ⟨-, -, -, -, -, e⟩ <;> rw [e] at h <;> grind

/-- PARSE never raises BuildOverflow. -/
theorem judgeSeq_error {f : List Byte} {r : Raise} (h : judgeSeq f = .error r) : r.error ≠ .buildOverflow := by
  unfold judgeSeq at h
  have hf := @judgeFixed_error f r
  have hv := @judgeVar_error f r
  grind

/-- PARSE of a sequence too short to hold a start byte (42_frame_parser.md R165). -/
theorem judgeSeq_nil : judgeSeq [] = .error ⟨.lengthMismatch, 0, 0, 0⟩ := rfl

/-- PARSE of a sequence that starts with neither start byte. -/
theorem judgeSeq_badStart {b : Byte} (hf : b ≠ startFixed) (hv : b ≠ startVar) (r : List Byte) :
    judgeSeq (b :: r) = .error ⟨.badStartByte, 0, b, 0⟩ := by
  unfold judgeSeq
  rw [if_neg (by simp), if_pos ⟨hf, hv⟩]
  rfl

/-- PARSE of six bytes that start as a fixed frame is CompleteFixed. -/
theorem judgeSeq_fixed (c lo hi k e : Byte) :
    judgeSeq [startFixed, c, lo, hi, k, e] = judgeFixed [startFixed, c, lo, hi, k, e] := by
  unfold judgeSeq
  rw [if_neg (by simp), if_neg (by simp [byteAt]), if_pos (by simp [byteAt]), if_neg (by simp)]

/-- PARSE of a fixed frame of another length. -/
theorem judgeSeq_fixed_length {r : List Byte} (h : r.length ≠ 5) :
    judgeSeq (startFixed :: r) = .error ⟨.lengthMismatch, 0, startFixed, 0⟩ := by
  unfold judgeSeq
  rw [if_neg (by simp), if_neg (by simp [byteAt]), if_pos (by simp [byteAt]), if_pos (by simp [fixedLen]; omega)]
  rfl

/-- PARSE of a variable frame as long as it declares is CompleteVar. -/
theorem judgeSeq_var {l : Byte} {r : List Byte} (h : r.length = l.toNat + 4) :
    judgeSeq (startVar :: l :: r) = judgeVar (startVar :: l :: r) := by
  unfold judgeSeq
  rw [if_neg (by simp), if_neg (by simp [byteAt]), if_neg (by simp [byteAt]; decide), if_neg (by simp),
    if_neg (by simp [byteAt, varExtra]; omega)]

/-- PARSE of a variable frame of another length than it declares. -/
theorem judgeSeq_var_length {l : Byte} {r : List Byte} (h : r.length ≠ l.toNat + 4) :
    judgeSeq (startVar :: l :: r) = .error ⟨.lengthMismatch, 1, l, 0⟩ := by
  unfold judgeSeq
  rw [if_neg (by simp), if_neg (by simp [byteAt]), if_neg (by simp [byteAt]; decide), if_neg (by simp),
    if_pos (by simp [byteAt, varExtra]; omega)]
  rfl

/-- VARBLD's frame when the data fit (41_frame_builder.md R133). -/
theorem buildVar_fits {x : VarFields} (h : x.data.length ≤ maxData) : buildVar x = .ok (.bytes (varFrameBytes x)) := by
  rw [buildVar, if_neg (by omega)]

/-- BuildOverflow when they do not (41_frame_builder.md R138). -/
theorem buildVar_overflows {x : VarFields} (h : maxData < x.data.length) : buildVar x = .error (overflow x.data) := by
  rw [buildVar, if_pos h]

end Sys2Proof.Machine
end

