-- ==== Sys2Proof/Laws/Exec.lean ====
section
/-! SUPPORT. The instructions whose meaning branches, each inverted once; what FEED leaves alone; and that FEEDs one after
another do what a chunk does. -/

namespace Sys2Proof.Machine

/-! ### FEED and received frames -/

/-- A FEED that completes is one `feedOne`. -/
theorem execFeed_next {b : Byte} {s t : State} (h : execFeed b s = .next t) :
    ∃ u r, feedOne b s = .ok (u, r) ∧ t = u.answer r := by
  unfold execFeed at h
  split at h
  · next p hp =>
    cases h
    exact ⟨p.1, p.2, hp, rfl⟩
  · cases h

/-- A received chunk that completes is one `feedAll`. -/
theorem receive_next {bs : List Byte} {s t : State} (h : receive bs s = .next t) :
    ∃ u rs, feedAll bs s = .ok (u, rs) ∧ t = u.respond (.results rs) := by
  unfold receive at h
  split at h
  · next u rs hp =>
    cases h
    exact ⟨u, rs, hp, rfl⟩
  · cases h

/-- FEED touches neither the parameters, nor the port, nor SEQ (10_state.md R29). -/
theorem feedOne_frame {b : Byte} {s t : State} {r : Result} (h : feedOne b s = .ok (t, r)) :
    t.cfg = s.cfg ∧ t.port = s.port ∧ t.fcb = s.fcb ∧ t.der = s.der ∧ t.dirpm = s.dirpm := by
  rcases feedOne_cases h with ⟨-, -, rfl, -⟩ | ⟨-, -, rfl, -⟩ | ⟨-, -, -, rfl, -⟩ | ⟨-, -, -, rfl, -⟩ | ⟨-, -, -, e⟩
  · exact ⟨rfl, rfl, rfl, rfl, rfl⟩
  · exact ⟨rfl, rfl, rfl, rfl, rfl⟩
  · simp
  · rw [storeByte_eq]
    exact ⟨rfl, rfl, rfl, rfl, rfl⟩
  · have ht : t = ((storeByte b s).idle.conclude (judgeBuffer (storeByte b s).buf)).1 := congrArg Prod.fst e
    rw [ht, storeByte_eq]
    simp

/-- A chunk touches neither the parameters, nor the port, nor SEQ. -/
theorem feedAll_frame {bs : List Byte} {s t : State} {rs : List Result} (h : feedAll bs s = .ok (t, rs)) :
    t.cfg = s.cfg ∧ t.port = s.port ∧ t.fcb = s.fcb ∧ t.der = s.der ∧ t.dirpm = s.dirpm := by
  refine feedAll_keeps
    (fun t => t.cfg = s.cfg ∧ t.port = s.port ∧ t.fcb = s.fcb ∧ t.der = s.der ∧ t.dirpm = s.dirpm) ?_ ⟨rfl, rfl, rfl, rfl, rfl⟩ h
  intro b u v r hu hv
  obtain ⟨h1, h2, h3, h4, h5⟩ := feedOne_frame hv
  rw [h1, h2, h3, h4, h5]
  exact hu

/-- The verdict on a complete frame is never BuildOverflow. -/
theorem judgeBuffer_error {m : List Host.Cell} {r : Raise} (h : judgeBuffer m = .error r) : r.error ≠ .buildOverflow := by
  unfold judgeBuffer at h
  split at h
  · rcases judgeFixed_error h with e | e <;> rw [e] <;> decide
  · exact judgeVar_error h

/-- One FEED at the head of a run. -/
theorem runOps_feed {b : Byte} {s u : State} {p : State × Result} {is : List Instr} {rs : List Response}
    (h : feedOne b s = .ok p) (hr : runOps is (finish p) = .next (u, rs)) :
    runOps (.feed b :: is) s = .next (u, .result p.2 :: rs) := by
  simp only [runOps, exec, execFeed, h, hr]
  rfl

/-- A run whose first FEED completes faults where the rest of it does. -/
theorem runOps_feed_fault {b : Byte} {s : State} {p : State × Result} {is : List Instr} {f : Fault}
    (h : feedOne b s = .ok p) (hr : runOps is (finish p) = .fault f) : runOps (.feed b :: is) s = .fault f := by
  simp only [runOps, exec, execFeed, h, hr]

/-- The last response plays no part in a FEED. -/
theorem feedOne_respond (b : Byte) (s : State) (x : Response) :
    feedOne b (s.respond x) = (feedOne b s).map fun p => (p.1.respond x, p.2) := by
  have raised : ∀ (u : State) (r : Raise), (u.respond x).errorEntry r = (u.errorEntry r).respond x := by
    rintro u ⟨e, -, -, -⟩
    cases e <;> rfl
  have stored : storeByte b (s.respond x) = (storeByte b s).respond x := by
    simp only [storeByte_eq]
    rfl
  have concluded : ∀ (u : State) (e : Except Raise Value),
      (u.respond x).conclude e = ((u.conclude e).1.respond x, (u.conclude e).2) := by
    rintro u (r | v)
    · exact Prod.ext (raised u r) rfl
    · rfl
  have idle : feedIdle b (s.respond x) = ((feedIdle b s).1.respond x, (feedIdle b s).2) := by
    unfold feedIdle
    split
    · rfl
    · split
      · rfl
      · exact Prod.ext (raised s ⟨.badStartByte, 0, b, 0⟩) rfl
  have body : feedBody b (s.respond x) = ((feedBody b s).1.respond x, (feedBody b s).2) := by
    simp only [feedBody, stored, respond_cnt, respond_tot, respond_buf]
    split
    · rfl
    · exact concluded (storeByte b s).idle _
  simp only [feedOne, idle, body, respond_cnt]
  split_ifs <;> rfl

/-- Nor in a chunk. -/
theorem feedAll_respond (bs : List Byte) (s : State) (x : Response) :
    feedAll bs (s.respond x) = (feedAll bs s).map fun p => (p.1.respond x, p.2) := by
  induction bs generalizing s with
  | nil => rfl
  | cons b bs ih =>
    simp only [feedAll, feedOne_respond]
    cases feedOne b s with
    | error f => rfl
    | ok p =>
      simp only [Except.map, ih]
      cases feedAll bs p.1 <;> rfl

/-- FEEDs issued one after another do what the chunk does, up to the response, which holds the last result only. -/
theorem runOps_feeds (bs : List Byte) (s : State) :
    (∀ t rs, feedAll bs s = .ok (t, rs) → ∃ x, runOps (bs.map .feed) s = .next (t.respond x, rs.map .result)) ∧
    (∀ f, feedAll bs s = .error f → runOps (bs.map .feed) s = .fault f) := by
  induction bs generalizing s with
  | nil =>
    refine ⟨fun t rs h => ?_, fun f h => by cases h⟩
    cases h
    exact ⟨s.response, rfl⟩
  | cons b bs ih =>
    cases h1 : feedOne b s with
    | error g =>
      have run : runOps ((b :: bs).map .feed) s = .fault g := by
        simp only [List.map_cons, runOps, exec, execFeed, h1]
      have chunk : feedAll (b :: bs) s = .error g := by
        simp only [feedAll, h1]
      rw [run, chunk]
      exact ⟨nofun, fun f h => by cases h; rfl⟩
    | ok p =>
      obtain ⟨ihNext, ihFault⟩ := ih (finish p)
      have moved : feedAll bs (finish p) = _ := feedAll_respond bs p.1 (.result p.2)
      cases h2 : feedAll bs p.1 with
      | error g =>
        have chunk : feedAll (b :: bs) s = .error g := by
          simp only [feedAll, h1, h2]
        rw [h2] at moved
        rw [chunk]
        refine ⟨nofun, fun f h => ?_⟩
        cases h
        exact runOps_feed_fault h1 (ihFault g moved)
      | ok q =>
        have chunk : feedAll (b :: bs) s = .ok (q.1, p.2 :: q.2) := by
          simp only [feedAll, h1, h2]
        rw [h2] at moved
        rw [chunk]
        refine ⟨fun t rs h => ?_, nofun⟩
        cases h
        obtain ⟨x, hx⟩ := ihNext _ _ moved
        exact ⟨x, runOps_feed h1 hx⟩

/-! ### VARBLD and USERDATA -/

/-- VARBLD when the data fit. -/
theorem execVarbld_fits {x : VarFields} (h : x.data.length ≤ maxData) (s : State) :
    execVarbld x s = .next (s.giveValue (.bytes (varFrameBytes x))) := by
  rw [execVarbld, buildVar_fits h]
  rfl

/-- VARBLD when they do not. -/
theorem execVarbld_overflows {x : VarFields} (h : maxData < x.data.length) (s : State) :
    execVarbld x s = .next ((s.errorEntry (overflow x.data)).answer (.error .buildOverflow)) := by
  rw [execVarbld, buildVar_overflows h]
  rfl

/-- USERDATA when the data fit: the frame carries the inverted frame-count bit. -/
theorem execUserdata_fits {x : UserFields} (h : x.data.length ≤ maxData) (s : State) :
    execUserdata x s = .next (s.toggleFcb.giveValue (.bytes (varFrameBytes (userFrame x s.toggleFcb)))) := by
  rw [execUserdata, if_neg (by omega), buildVar_fits (by exact h)]
  rfl

/-- USERDATA when they do not: the frame-count bit is not touched. -/
theorem execUserdata_overflows {x : UserFields} (h : maxData < x.data.length) (s : State) :
    execUserdata x s = .next ((s.errorEntry (overflow x.data)).answer (.error .buildOverflow)) := by
  rw [execUserdata, if_pos h]
  rfl

/-! ### The port -/

/-- All that taking the next item off the port can answer. -/
theorem fetch_cases (s : State) :
    (s.port = [] ∧ fetch s = .waiting) ∨
    (∃ i rest, decode s.port = .ok (i, rest) ∧ fetch s = .item i { s with port := rest }) ∨
    (∃ e, s.port ≠ [] ∧ decode s.port = .error e ∧ fetch s = .rejected e) := by
  by_cases h : s.port = []
  · exact .inl ⟨h, by simp [fetch, h]⟩
  · cases hd : decode s.port with
    | ok p => exact .inr (.inl ⟨p.1, p.2, rfl, by simp [fetch, h, hd]⟩)
    | error e => exact .inr (.inr ⟨e, h, rfl, by simp [fetch, h, hd]⟩)

end Sys2Proof.Machine
end

