-- ==== Sys2Proof/Laws/Numbers.lean ====
section
/-! SUPPORT. The packings meet the numeric forms in which claims speak of them. -/

namespace Sys2Proof.Machine

theorem isCtrlByte_packCtrl (c : Ctrl) : IsCtrlByte (packCtrl c) c := packCtrl_toNat c

theorem isCtrlByte_unpackCtrl (b : Byte) : IsCtrlByte b (unpackCtrl b) := by
  have := packCtrl_toNat (unpackCtrl b)
  rwa [packCtrl_unpackCtrl] at this

theorem isCauseByte_packCause (c : Cause) : IsCauseByte (packCause c) c := packCause_toNat c

theorem isCauseByte_unpackCause (b : Byte) : IsCauseByte b (unpackCause b) := by
  have := packCause_toNat (unpackCause b)
  rwa [packCause_unpackCause] at this

theorem isU16_lo8_hi8 (v : Address) : IsU16 (lo8 v) (hi8 v) v := by
  have := v.isLt
  simp [IsU16]
  omega

theorem isU16_u16le (lo hi : Byte) : IsU16 lo hi (u16le lo hi) := by
  simp [IsU16]
  omega

theorem isSum_sum8 (s : List Byte) : IsSum (sum8 s) s := by
  simp [IsSum, sum8_eq_ofNat]

theorem isSum_iff (cs : Byte) (s : List Byte) : IsSum cs s ↔ cs = sum8 s := by
  constructor
  · intro h
    apply BitVec.eq_of_toNat_eq
    rw [h, ← isSum_sum8 s]
  · rintro rfl
    exact isSum_sum8 s

theorem isTime5_packTime (f : TimeFields) : IsTime5 (packTime f) f := by
  have h0 : ∀ iv tis : Bit, ∀ minute : BitVec 6,
      (iv ++ tis ++ minute : Byte).toNat = minute.toNat + 64 * tis.toNat + 128 * iv.toNat := by decide
  have h1 : ∀ su : Bit, ∀ res1 : BitVec 2, ∀ hour : BitVec 5,
      (su ++ res1 ++ hour : Byte).toNat = hour.toNat + 32 * res1.toNat + 128 * su.toNat := by decide
  have h2 : ∀ dow : BitVec 3, ∀ dom : BitVec 5, (dow ++ dom : Byte).toNat = dom.toNat + 32 * dow.toNat := by decide
  have h3 : ∀ pti eti : BitVec 2, ∀ month : BitVec 4,
      (pti ++ eti ++ month : Byte).toNat = month.toNat + 16 * eti.toNat + 64 * pti.toNat := by decide
  have h4 : ∀ res2 : Bit, ∀ year : BitVec 7, (res2 ++ year : Byte).toNat = year.toNat + 128 * res2.toNat := by decide
  exact ⟨h0 _ _ _, h1 _ _ _, h2 _ _, h3 _ _ _, h4 _ _⟩

theorem isTime5_unpackTime (t : Bytes5) : IsTime5 t (unpackTime t) := by
  have := isTime5_packTime (unpackTime t)
  rwa [packTime_unpackTime] at this

theorem isSecMs_packSecMs (o : T7Order) (ms : BitVec 10) (sec : BitVec 6) :
    IsSecMs o (lo8 (packSecMs o ms sec)) (hi8 (packSecMs o ms sec)) ms sec := by
  have h := isU16_lo8_hi8 (packSecMs o ms sec)
  have h' := packSecMs_toNat o ms sec
  unfold IsU16 at h
  cases o <;> simp only [IsSecMs, h, h']

theorem isSecMs_unpack (o : T7Order) (b0 b1 : Byte) :
    IsSecMs o b0 b1 (unpackMs o (u16le b0 b1)) (unpackSec o (u16le b0 b1)) := by
  have := isSecMs_packSecMs o (unpackMs o (u16le b0 b1)) (unpackSec o (u16le b0 b1))
  simpa using this

end Sys2Proof.Machine
end

