-- ==== Sys2Proof/Laws/PerInstr.lean ====
section
/-! SUPPORT. Statements made one instruction at a time. -/

namespace Sys2Proof.Laws

/-- An item's encoding begins with its first byte, which is a command code of 30_encoding.md R100 or R102 (below 32) or the
number of one of the seven wire formats (32 to 38). -/
def FirstByte.Statement (i : Instr) : Prop :=
  (encode i).head? = some (opByte i) ∧ (opByte i).toNat < 39

theorem FirstByte.sum8 : ∀ x0, FirstByte.Statement (.sum8 x0) := by
  simp [FirstByte.Statement, encode, opByte]

theorem FirstByte.ctrlpk : ∀ x0, FirstByte.Statement (.ctrlpk x0) := by
  simp [FirstByte.Statement, encode, opByte]

theorem FirstByte.ctrlup : ∀ x0, FirstByte.Statement (.ctrlup x0) := by
  simp [FirstByte.Statement, encode, opByte]

theorem FirstByte.cotpk : ∀ x0, FirstByte.Statement (.cotpk x0) := by
  simp [FirstByte.Statement, encode, opByte]

theorem FirstByte.cotup : ∀ x0, FirstByte.Statement (.cotup x0) := by
  simp [FirstByte.Statement, encode, opByte]

theorem FirstByte.fixbld : ∀ x0, FirstByte.Statement (.fixbld x0) := by
  simp [FirstByte.Statement, encode, opByte]

theorem FirstByte.varbld : ∀ x0, FirstByte.Statement (.varbld x0) := by
  simp [FirstByte.Statement, encode, opByte]

theorem FirstByte.feed : ∀ x0, FirstByte.Statement (.feed x0) := by
  simp [FirstByte.Statement, encode, opByte]

theorem FirstByte.abort : FirstByte.Statement .abort := by
  simp [FirstByte.Statement, encode, opByte]

theorem FirstByte.parse : ∀ x0, FirstByte.Statement (.parse x0) := by
  simp [FirstByte.Statement, encode, opByte]

theorem FirstByte.t5enc : ∀ x0, FirstByte.Statement (.t5enc x0) := by
  simp [FirstByte.Statement, encode, opByte]

theorem FirstByte.t5dec : ∀ x0, FirstByte.Statement (.t5dec x0) := by
  simp [FirstByte.Statement, encode, opByte]

theorem FirstByte.t7enc : ∀ x0 x1 x2, FirstByte.Statement (.t7enc x0 x1 x2) := by
  simp [FirstByte.Statement, encode, opByte]

theorem FirstByte.t7dec : ∀ x0, FirstByte.Statement (.t7dec x0) := by
  simp [FirstByte.Statement, encode, opByte]

theorem FirstByte.wrder : ∀ x0, FirstByte.Statement (.wrder x0) := by
  simp [FirstByte.Statement, encode, opByte]

theorem FirstByte.wrpm : ∀ x0, FirstByte.Statement (.wrpm x0) := by
  simp [FirstByte.Statement, encode, opByte]

theorem FirstByte.rdreg : ∀ x0, FirstByte.Statement (.rdreg x0) := by
  simp [FirstByte.Statement, encode, opByte]

theorem FirstByte.errclr : FirstByte.Statement .errclr := by
  simp [FirstByte.Statement, encode, opByte]

theorem FirstByte.fcbnext : FirstByte.Statement .fcbnext := by
  simp [FirstByte.Statement, encode, opByte]

theorem FirstByte.linkstat : FirstByte.Statement .linkstat := by
  simp [FirstByte.Statement, encode, opByte]

theorem FirstByte.linkrst : FirstByte.Statement .linkrst := by
  simp [FirstByte.Statement, encode, opByte]

theorem FirstByte.class2 : FirstByte.Statement .class2 := by
  simp [FirstByte.Statement, encode, opByte]

theorem FirstByte.userdata : ∀ x0, FirstByte.Statement (.userdata x0) := by
  simp [FirstByte.Statement, encode, opByte]

theorem FirstByte.reset : FirstByte.Statement .reset := by
  simp [FirstByte.Statement, encode, opByte]

theorem FirstByte.reserved00 : FirstByte.Statement .reserved00 := by
  simp [FirstByte.Statement, encode, opByte]

theorem FirstByte.reserved06 : FirstByte.Statement .reserved06 := by
  simp [FirstByte.Statement, encode, opByte]

theorem FirstByte.reserved07 : FirstByte.Statement .reserved07 := by
  simp [FirstByte.Statement, encode, opByte]

theorem FirstByte.reserved0A : FirstByte.Statement .reserved0A := by
  simp [FirstByte.Statement, encode, opByte]

theorem FirstByte.reserved0B : FirstByte.Statement .reserved0B := by
  simp [FirstByte.Statement, encode, opByte]

theorem FirstByte.reserved0F : FirstByte.Statement .reserved0F := by
  simp [FirstByte.Statement, encode, opByte]

theorem FirstByte.reserved1D : FirstByte.Statement .reserved1D := by
  simp [FirstByte.Statement, encode, opByte]

theorem FirstByte.reserved1E : FirstByte.Statement .reserved1E := by
  simp [FirstByte.Statement, encode, opByte]

theorem FirstByte.wireFixedFrame : ∀ x0 x1, FirstByte.Statement (.wireFixedFrame x0 x1) := by
  simp [FirstByte.Statement, encode, opByte]

theorem FirstByte.wireControlByte : ∀ x0, FirstByte.Statement (.wireControlByte x0) := by
  simp [FirstByte.Statement, encode, opByte]

theorem FirstByte.wireVariableFrameHead : ∀ x0 x1 x2 x3 x4 x5 x6 x7, FirstByte.Statement (.wireVariableFrameHead x0 x1 x2 x3 x4 x5 x6 x7) := by
  simp [FirstByte.Statement, encode, opByte]

theorem FirstByte.wireCauseByte : ∀ x0, FirstByte.Statement (.wireCauseByte x0) := by
  simp [FirstByte.Statement, encode, opByte]

theorem FirstByte.wireTime5 : ∀ x0, FirstByte.Statement (.wireTime5 x0) := by
  simp [FirstByte.Statement, encode, opByte]

theorem FirstByte.wireTime7SecLow : ∀ x0 x1 x2, FirstByte.Statement (.wireTime7SecLow x0 x1 x2) := by
  simp [FirstByte.Statement, encode, opByte]

theorem FirstByte.wireTime7MsLow : ∀ x0 x1 x2, FirstByte.Statement (.wireTime7MsLow x0 x1 x2) := by
  simp [FirstByte.Statement, encode, opByte]

end Sys2Proof.Laws
end

