-- ==== Sys2Proof/Tests/Slice0.lean ====
section
/-! SUPPORT. Checks of the model on fixed values. The expected values come from the worked examples and vectors of
95_test_vectors.md (their numbers stand in the comments), and the bytes of the decode tests are written out from the codes
and patterns of 30_encoding.md. -/

namespace Sys2Proof.Tests

open Sys2Proof.Machine

/-! ### Helpers -/

/-- What an item issued in the state `s` hands back. -/
def gives (i : Instr) (s : State) : Option Response :=
  match exec i s with
  | .next t => some t.response
  | _ => none

/-- The state after an item. -/
def after (i : Instr) (s : State) : State :=
  match exec i s with
  | .next t => t
  | _ => s

/-- The state after some bytes were fed. -/
def fed (bs : List Byte) (s : State) : State :=
  match runOps (bs.map Instr.feed) s with
  | .next p => p.1
  | _ => s

def byte (b : Byte) : Option Response := some (.result (.value (.byte b)))

def bytes (s : List Byte) : Option Response := some (.result (.value (.bytes s)))

def word (w : BitVec 32) : Option Response := some (.result (.value (.word w)))

def failed (e : FrameError) : Option Response := some (.result (.error e))

def noValue : Option Response := some (.result .none)

/-- The block after RESET with the two addresses of family 44's vectors. -/
def linked : State := { State.reset with der := 34572, dirpm := 1 }

/-- The block with `T7_ORDER = MS_LOW`. -/
def msLow : State := { State.reset with cfg := { Config.standard with t7Order := .msLow } }

/-- The control byte 0x49 of DOC1's example. -/
def c49 : Ctrl := { res := 0, prm := 1, fcb := 0, fcv := 0, fc := 9 }

def cause6 : Cause := { t := 0, pn := 0, cause := 6 }

/-- Vector V2: the shortest variable frame. -/
def v2 : VarFields :=
  { ctrl := { res := 0, prm := 1, fcb := 0, fcv := 1, fc := 3 }, addr := 1, tid := 103, vsq := 0, cot := cause6, pm := 1,
    ra := 0, data := [] }

def v2Bytes : List Byte := [0x68, 0x09, 0x09, 0x68, 0x53, 0x01, 0x00, 0x67, 0x00, 0x06, 0x01, 0x00, 0x00, 0xc2, 0x16]

/-- The operands of vector L5. -/
def u5 : UserFields := { tid := 183, vsq := 1, cot := cause6, ra := 0, data := [0x07, 0x00, 0x00, 0x00] }

/-- The fields of vector T1. -/
def f1 : TimeFields :=
  { minute := 37, tis := 0, iv := 0, hour := 14, res1 := 0, su := 0, dom := 10, dow := 2, month := 11, eti := 0, pti := 0,
    year := 26, res2 := 0 }

/-- The fields of vector T4. -/
def f4 : TimeFields :=
  { minute := 0, tis := 1, iv := 1, hour := 0, res1 := 2, su := 0, dom := 1, dow := 1, month := 1, eti := 2, pti := 1,
    year := 99, res2 := 1 }

/-- The fields T8 returns. -/
def f8 : TimeFields :=
  { minute := 0, tis := 0, iv := 0, hour := 0, res1 := 0, su := 0, dom := 1, dow := 0, month := 1, eti := 0, pti := 0,
    year := 0, res2 := 0 }

def t1Bytes : Bytes5 := { b0 := 0x25, b1 := 0x0e, b2 := 0x4a, b3 := 0x0b, b4 := 0x1a }

def zeroBytes5 : Bytes5 := { b0 := 0, b1 := 0, b2 := 0, b3 := 0, b4 := 0 }

/-! ### WellFormed: each check refuses an ill-formed term (`bytes[0..65535]`, 30_encoding.md R100) -/

theorem test_seqFits_edge : seqFits (List.replicate 65535 0) = true := by
  rw [seqFits, List.length_replicate]
  rfl

theorem test_seqFits_beyond : seqFits (List.replicate 65536 0) = false := by
  rw [seqFits, List.length_replicate]
  rfl

theorem test_wellFormed_refuses_sum8 : (Instr.sum8 (List.replicate 65536 0)).wellFormed = false := test_seqFits_beyond

theorem test_wellFormed_refuses_parse : (Instr.parse (List.replicate 65536 0)).wellFormed = false := test_seqFits_beyond

theorem test_wellFormed_refuses_varbld :
    (Instr.varbld { v2 with data := List.replicate 65536 0 }).wellFormed = false := test_seqFits_beyond

theorem test_wellFormed_refuses_userdata :
    (Instr.userdata { u5 with data := List.replicate 65536 0 }).wellFormed = false := test_seqFits_beyond

/-! ### Decode: one item written out for every constructor (codes of R100 and R102, patterns of R71 to R86) -/

theorem test_decode_chk :
    decode [0x01, 0x02, 0x00, 0xff, 0x01, 0x99] = .ok (.sum8 [0xff, 0x01], [0x99]) ∧
    decode [0x02, 0x00, 0x01, 0x00, 0x00, 0x09] = .ok (.ctrlpk c49, []) ∧
    decode [0x03, 0x73] = .ok (.ctrlup 0x73, []) ∧
    decode [0x04, 0x01, 0x00, 0x3f] = .ok (.cotpk { t := 1, pn := 0, cause := 63 }, []) ∧
    decode [0x05, 0x4e] = .ok (.cotup 0x4e, []) := ⟨rfl, rfl, rfl, rfl, rfl⟩

theorem test_decode_frm :
    decode [0x08, 0x00, 0x01, 0x00, 0x00, 0x09, 0x0c, 0x87] = .ok (.fixbld { ctrl := c49, addr := 34572 }, []) ∧
    decode [0x09, 0x00, 0x01, 0x00, 0x01, 0x03, 0x01, 0x00, 0x67, 0x00, 0x00, 0x00, 0x06, 0x01, 0x00, 0x00, 0x00, 0x00] =
      .ok (.varbld v2, []) ∧
    decode [0x0c, 0x68] = .ok (.feed 0x68, []) ∧
    decode [0x0d] = .ok (.abort, []) ∧
    decode [0x0e, 0x01, 0x00, 0x55] = .ok (.parse [0x55], []) := ⟨rfl, rfl, rfl, rfl, rfl⟩

theorem test_decode_tim :
    decode [0x10, 37, 0, 0, 14, 0, 0, 10, 2, 11, 0, 0, 26, 0] = .ok (.t5enc f1, []) ∧
    decode [0x11, 0x25, 0x0e, 0x4a, 0x0b, 0x1a] = .ok (.t5dec t1Bytes, []) ∧
    decode [0x12, 0xf4, 0x01, 42, 37, 0, 0, 14, 0, 0, 10, 2, 11, 0, 0, 26, 0] = .ok (.t7enc 500 42 f1, []) ∧
    decode [0x13, 0x2a, 0x7d, 0x25, 0x0e, 0x4a, 0x0b, 0x1a] = .ok (.t7dec { b0 := 0x2a, b1 := 0x7d, rest := t1Bytes }, []) :=
  ⟨rfl, rfl, rfl, rfl⟩

theorem test_decode_seq :
    decode [0x14, 0x0c, 0x87] = .ok (.wrder 34572, []) ∧
    decode [0x15, 0x01, 0x00] = .ok (.wrpm 1, []) ∧
    decode [0x16, 0x07] = .ok (.rdreg 7, []) ∧
    decode [0x17] = .ok (.errclr, []) ∧
    decode [0x18] = .ok (.fcbnext, []) ∧
    decode [0x19] = .ok (.linkstat, []) ∧
    decode [0x1a] = .ok (.linkrst, []) ∧
    decode [0x1b] = .ok (.class2, []) ∧
    decode [0x1c, 0xb7, 0x01, 0x00, 0x00, 0x06, 0x00, 0x04, 0x00, 0x07, 0x00, 0x00, 0x00] = .ok (.userdata u5, []) ∧
    decode [0x1f] = .ok (.reset, []) := ⟨rfl, rfl, rfl, rfl, rfl, rfl, rfl, rfl, rfl, rfl⟩

theorem test_decode_reserved :
    decode [0x00] = .ok (.reserved00, []) ∧ decode [0x06] = .ok (.reserved06, []) ∧
    decode [0x07] = .ok (.reserved07, []) ∧ decode [0x0a] = .ok (.reserved0A, []) ∧
    decode [0x0b] = .ok (.reserved0B, []) ∧ decode [0x0f] = .ok (.reserved0F, []) ∧
    decode [0x1d] = .ok (.reserved1D, []) ∧ decode [0x1e] = .ok (.reserved1E, []) :=
  ⟨rfl, rfl, rfl, rfl, rfl, rfl, rfl, rfl⟩

/-- S1's fixed frame, K18, the head of V2, K28, T1, and T13 in its two orders. -/
theorem test_decode_wire :
    decode [0x20, 0x10, 0x49, 0x0c, 0x87, 0xdc, 0x16] = .ok (.wireFixedFrame { ctrl := c49, addr := 34572 } 0xdc, []) ∧
    decode [0x21, 0x49] = .ok (.wireControlByte c49, []) ∧
    decode [0x22, 0x68, 0x09, 0x09, 0x68, 0x53, 0x01, 0x00, 0x67, 0x00, 0x06, 0x01, 0x00, 0x00] =
      .ok (.wireVariableFrameHead 9 v2.ctrl 1 103 0 cause6 1 0, []) ∧
    decode [0x23, 0x4e] = .ok (.wireCauseByte { t := 0, pn := 1, cause := 14 }, []) ∧
    decode [0x24, 0x25, 0x0e, 0x4a, 0x0b, 0x1a] = .ok (.wireTime5 f1, []) ∧
    decode [0x25, 0x2a, 0x7d, 0x25, 0x0e, 0x4a, 0x0b, 0x1a] = .ok (.wireTime7SecLow 500 42 f1, []) ∧
    decode [0x26, 0xf4, 0xa9, 0x25, 0x0e, 0x4a, 0x0b, 0x1a] = .ok (.wireTime7MsLow 500 42 f1, []) :=
  ⟨rfl, rfl, rfl, rfl, rfl, rfl, rfl⟩

theorem test_decode_rejects :
    decode [] = .error .truncated ∧
    decode [0x14, 0x0c] = .error .truncated ∧
    decode [0x40] = .error .unknownSpace ∧
    decode [0x27] = .error .unknownWireFormat ∧
    decode [0x16, 0x08] = .error .operandOutsideType ∧
    decode [0x20, 0x11, 0x49, 0x0c, 0x87, 0xdc, 0x16] = .error .wrongWireMarker := ⟨rfl, rfl, rfl, rfl, rfl, rfl⟩

theorem test_tableWords :
    decodeTableWord 8 0x0c = some (.feed 0) ∧ decodeTableWord 8 0x1f = some .reset ∧
    decodeTableWord 48 0x16dc870c4910 = some (.wireFixedFrame { ctrl := c49, addr := 34572 } 0xdc) := by decide

theorem test_withFetchWord_runs : step (State.reset.withFetchWord 8 0x18) =
    .next { State.reset with fcb := 1, port := List.replicate 32 0, response := .result (.value (.bit 1)) } := rfl

/-! ### CHK (K1 to K31) -/

theorem test_sum8_wraps : gives (.sum8 [0xff, 0x01]) State.reset = byte 0x00 := by decide

theorem test_sum8_example : gives (.sum8 [0x49, 0x0c, 0x87]) State.reset = byte 0xdc := by decide

theorem test_ctrlpk : gives (.ctrlpk { res := 0, prm := 0, fcb := 1, fcv := 0, fc := 8 }) State.reset = byte 0x28 := by decide

theorem test_ctrlpk_reserved : gives (.ctrlpk { res := 1, prm := 0, fcb := 0, fcv := 0, fc := 0 }) State.reset = byte 0x80 := by
  decide

theorem test_ctrlup : gives (.ctrlup 0x49) State.reset = some (.result (.value (.ctrl c49))) := by decide

theorem test_cotpk : gives (.cotpk { t := 0, pn := 1, cause := 7 }) State.reset = byte 0x47 := by decide

theorem test_cotpk_bit7 : gives (.cotpk { t := 1, pn := 0, cause := 5 }) State.reset = byte 0x85 := by decide

theorem test_cotup : gives (.cotup 0x4e) State.reset = some (.result (.value (.cause { t := 0, pn := 1, cause := 14 }))) := by
  decide

/-! ### FRM (F1, F7, V2, V5, V7, P1 to P15, Q1 to Q8) -/

theorem test_fixbld : gives (.fixbld { ctrl := c49, addr := 34572 }) State.reset = bytes [0x10, 0x49, 0x0c, 0x87, 0xdc, 0x16] := by
  decide

theorem test_fixbld_byte_order :
    gives (.fixbld { ctrl := c49, addr := 256 }) State.reset = bytes [0x10, 0x49, 0x00, 0x01, 0x4a, 0x16] := by decide

theorem test_varbld : gives (.varbld v2) State.reset = bytes v2Bytes := by decide

/-- V7: ERR = 0x00000085, STATUS.E_BLD set. -/
theorem test_varbld_overflow :
    let t := after (.varbld { v2 with data := List.replicate 247 0 }) State.reset
    t.response = .result (.error .buildOverflow) ∧ t.err.word = 0x00000085 ∧ t.status = 0x1000 := by decide +kernel

/-- P15: two bytes of a variable frame. -/
theorem test_feed_head :
    let t := fed [0x68, 0x0d] State.reset
    t.cnt = 2 ∧ t.tot = 19 ∧ t.status = 0x0007 := by decide

/-- P6: checksum and end byte both wrong, the lower offset is reported. -/
theorem test_feed_last :
    let s := fed [0x10, 0x00, 0x0c, 0x87, 0x94] State.reset
    gives (.feed 0x00) s = failed .checksumMismatch ∧ (after (.feed 0x00) s).err.word = 0x93940203 := by decide

theorem test_abort : (after .abort (fed [0x68, 0x0d] State.reset)).status = 0x0000 := by decide

theorem test_parse : gives (.parse v2Bytes) State.reset = some (.result (.value (.varFrame v2))) := by decide

/-- Q7. -/
theorem test_parse_length :
    let t := after (.parse [0x68, 0x0d]) State.reset
    t.response = .result (.error .lengthMismatch) ∧ t.err.word = 0x000d0082 := by decide

/-! ### TIM (T1, T4, T8, T12, T13, T18) -/

theorem test_t5enc : gives (.t5enc f1) State.reset = bytes [0x25, 0x0e, 0x4a, 0x0b, 0x1a] := by decide

theorem test_t5enc_flags : gives (.t5enc f4) State.reset = bytes [0xc0, 0x40, 0x21, 0x61, 0xe3] := by decide

theorem test_t5dec : gives (.t5dec { b0 := 0xc0, b1 := 0x40, b2 := 0x21, b3 := 0x61, b4 := 0xe3 }) State.reset =
    some (.result (.value (.time5 f4 2099))) := by decide

theorem test_t5dec_zero : gives (.t5dec zeroBytes5) State.reset = some (.result (.value (.time5 f8 2000))) := by decide

theorem test_t7enc :
    gives (.t7enc 500 42 f1) State.reset = bytes [0x2a, 0x7d, 0x25, 0x0e, 0x4a, 0x0b, 0x1a] ∧
    gives (.t7enc 500 42 f1) msLow = bytes [0xf4, 0xa9, 0x25, 0x0e, 0x4a, 0x0b, 0x1a] := by decide

theorem test_t7dec :
    gives (.t7dec { b0 := 0x2a, b1 := 0x7d, rest := t1Bytes }) State.reset = some (.result (.value (.time7 500 42 f1 2026))) ∧
    gives (.t7dec { b0 := 0x2a, b1 := 0x7d, rest := t1Bytes }) msLow = some (.result (.value (.time7 298 31 f1 2026))) := by
  decide

/-! ### SEQ (L1 to L14) -/

theorem test_wrder : (after (.wrder 34572) State.reset).der = 34572 := by decide

theorem test_wrpm : (after (.wrpm 1) State.reset).dirpm = 1 := by decide

/-- The eight register numbers in a state with every register in use. -/
theorem test_rdreg :
    let s : State := { fed [0x68, 0x0d] { linked with fcb := 1, eBld := 1, eChk := 1 } with
      err := { code := 3, pos := 20, got := 0xfa, exp := 0xf9 } }
    gives (.rdreg 0) s = word 0x0000140f ∧ gives (.rdreg 1) s = word 0xf9fa0a03 ∧ gives (.rdreg 2) s = word 0x0000870c ∧
    gives (.rdreg 3) s = word 1 ∧ gives (.rdreg 4) s = word 2 ∧ gives (.rdreg 5) s = word 19 ∧ gives (.rdreg 6) s = word 0 ∧
    gives (.rdreg 7) s = word 0 := by decide

theorem test_errclr :
    let t := after .errclr (after (.parse [0x55]) State.reset)
    t.status = 0 ∧ t.err.word = 0 ∧ gives .errclr State.reset = noValue := by decide

theorem test_fcbnext : gives .fcbnext { linked with fcb := 1 } = some (.result (.value (.bit 0))) := by decide

theorem test_linkstat : gives .linkstat { linked with fcb := 1 } = bytes [0x10, 0x49, 0x0c, 0x87, 0xdc, 0x16] := by decide

theorem test_linkrst :
    gives .linkrst linked = bytes [0x10, 0x40, 0x0c, 0x87, 0xd3, 0x16] ∧
    gives .linkrst { linked with cfg := { linked.cfg with fcResetLink := 1 } } = bytes [0x10, 0x41, 0x0c, 0x87, 0xd4, 0x16] := by
  decide

theorem test_class2 : gives .class2 linked = bytes [0x10, 0x7b, 0x0c, 0x87, 0x0e, 0x16] ∧ (after .class2 linked).fcb = 1 := by
  decide

theorem test_class2_again : gives .class2 { linked with fcb := 1 } = bytes [0x10, 0x5b, 0x0c, 0x87, 0xee, 0x16] := by decide

theorem test_userdata : gives (.userdata u5) linked =
    bytes [0x68, 0x0d, 0x0d, 0x68, 0x73, 0x0c, 0x87, 0xb7, 0x01, 0x06, 0x01, 0x00, 0x00, 0x07, 0x00, 0x00, 0x00, 0xcc, 0x16] := by
  decide

/-- L12: too much data consumes no frame-count bit. -/
theorem test_userdata_overflow :
    let t := after (.userdata { u5 with data := List.replicate 247 0 }) { linked with fcb := 1 }
    t.response = .result (.error .buildOverflow) ∧ t.err.word = 0x00000085 ∧ t.fcb = 1 := by decide +kernel

/-! ### Reset, errors, reserved codes (E1 to E5) -/

theorem test_reset : after .reset (fed [0x55, 0x68, 0x0d] { linked with fcb := 1, cfg := { linked.cfg with fcbReset := 1 } }) =
    { State.reset with
      cfg := { linked.cfg with fcbReset := 1 }, fcb := 1, buf := [(0, 0x68), (1, 0x0d)], response := .result .none } := by decide

/-- E1: the later error, both flags. -/
theorem test_errors_accumulate :
    let t := fed [0x10, 0x00, 0x0c, 0x87, 0x94, 0x16, 0x10, 0x00, 0x0c, 0x87, 0x93, 0x00] State.reset
    t.err.word = 0x16000284 ∧ t.status = 0x0c00 := by decide

theorem test_reserved :
    let s := after (.parse [0x55]) linked
    after .reserved00 s = { s with response := .refused } ∧ after .reserved06 s = { s with response := .refused } ∧
    after .reserved07 s = { s with response := .refused } ∧ after .reserved0A s = { s with response := .refused } ∧
    after .reserved0B s = { s with response := .refused } ∧ after .reserved0F s = { s with response := .refused } ∧
    after .reserved1D s = { s with response := .refused } ∧ after .reserved1E s = { s with response := .refused } := by decide

/-! ### Received wire items (P1, P4, K20, K29, T6, T18, T19) -/

theorem test_wire_fixed : gives (.wireFixedFrame { ctrl := c49, addr := 34572 } 0xdc) State.reset =
    some (.results [.none, .none, .none, .none, .none, .value (.fixFrame { ctrl := c49, addr := 34572 })]) := by decide

theorem test_wire_fixed_checksum : (after (.wireFixedFrame { ctrl := { c49 with prm := 0, fc := 0 }, addr := 34572 } 0x94)
    State.reset).err.word = 0x93940203 := by decide

/-- The head of V2, and its last two bytes fed after it. -/
theorem test_wire_variable :
    let t := after (.wireVariableFrameHead 9 v2.ctrl 1 103 0 cause6 1 0) State.reset
    t.cnt = 13 ∧ t.tot = 15 ∧ gives (.feed 0x16) (after (.feed 0xc2) t) = some (.result (.value (.varFrame v2))) := by decide

/-- A head that declares 3 bytes ends at its ninth byte (42_frame_parser.md R155), and the parser is idle for the rest. -/
theorem test_wire_variable_short : gives (.wireVariableFrameHead 3 v2.ctrl 1 103 0 cause6 1 0) State.reset =
    some (.results (List.replicate 8 .none ++ .error .lengthMismatch :: List.replicate 4 (.error .badStartByte))) := by decide

theorem test_wire_control : gives (.wireControlByte c49) State.reset = some (.result (.value (.ctrl c49))) := by decide

theorem test_wire_cause : gives (.wireCauseByte cause6) State.reset = some (.result (.value (.cause cause6))) := by decide

theorem test_wire_time5 : gives (.wireTime5 f1) State.reset = some (.result (.value (.time5 f1 2026))) := by decide

theorem test_wire_time7_secLow :
    gives (.wireTime7SecLow 500 42 f1) State.reset = some (.result (.value (.time7 500 42 f1 2026))) ∧
    gives (.wireTime7SecLow 500 42 f1) msLow = some (.result (.value (.time7 298 31 f1 2026))) := by decide

theorem test_wire_time7_msLow :
    gives (.wireTime7MsLow 500 42 f1) msLow = some (.result (.value (.time7 500 42 f1 2026))) ∧
    gives (.wireTime7MsLow 500 42 f1) State.reset = some (.result (.value (.time7 679 52 f1 2026))) := by decide

/-! ### Witnesses: a state and operands that meet the hypotheses of each statement of Certificates/Slice0/Obligations.lean
that has any, one for each of its clauses -/

/-- The longest variable frame's data, 246 bytes. -/
def longest : VarFields := { v2 with data := List.replicate 246 0 }

/-- Data of 247 bytes. -/
def tooLong : VarFields := { v2 with data := List.replicate 247 0 }

def u246 : UserFields := { u5 with data := List.replicate 246 0 }

def u247 : UserFields := { u5 with data := List.replicate 247 0 }

/-- A state as it stands inside a variable frame that declares the length `l`, before its last byte. -/
def beforeLast (l l' m k : Byte) : State :=
  { State.reset with
    buf := [(0, 0x68), (1, l), (2, l'), (3, m), (l.toNat + 4, k)]
    cnt := BitVec.ofNat 9 (l.toNat + 5), tot := BitVec.ofNat 9 (l.toNat + 6) }

/-- Two states that differ in a stale byte. -/
def staleA : State := fed [0x68, 0x0d] State.reset

def staleB : State := { staleA with buf := [(0, 0x68), (1, 0x0d), (2, 0x55)] }

/-- Two states that differ in the error record. -/
def errA : State := linked

def errB : State := { linked with err := { code := 1, pos := 0, got := 0x55, exp := 0 }, eBsb := 1 }

theorem witness_DecodeReadsWhatEncodeWrites : (Instr.sum8 (List.replicate 65535 0)).WellFormed ∧ Instr.abort.WellFormed :=
  ⟨test_seqFits_edge, rfl⟩

theorem witness_DecodedItemsEncodeBack : decode [0x14, 0x0c, 0x87, 0x99] = .ok (.wrder 34572, [0x99]) := rfl

theorem witness_StepRunsTheDecodedItem : decode { State.reset with port := [0x18, 0x1f] }.port = .ok (.fcbnext, [0x1f]) := rfl

theorem witness_StepWaitsForTheHost : State.reset.port = [] := rfl

theorem witness_StepRefusesWhatHoldsNoItem : [(0x40 : Byte)] ≠ [] ∧ decode [0x40] = .error .unknownSpace := ⟨by decide, rfl⟩

theorem witness_Sum8AddsBytesModulo256 : [(0xff : Byte), 0x01].Perm [0x01, 0xff] := by decide

theorem witness_ChecksumSeesOneChangedByte : (0x00 : Byte) ≠ 0x80 ∧ [(0x0c : Byte), 0x87].Perm [0x87, 0x0c] := by decide

theorem witness_VarbldBuildsTheVariableFrame :
    v2.data.length ≤ 246 ∧ longest.data.length ≤ 246 ∧ 246 < tooLong.data.length := by decide +kernel

theorem witness_BuildersAreInjective : ∃ x y : FixFields, exec (.fixbld x) State.reset = exec (.fixbld y) State.reset ∧
    ∃ x y : VarFields, x.data.length ≤ 246 ∧ y.data.length ≤ 246 ∧
      exec (.varbld x) State.reset = exec (.varbld y) State.reset :=
  ⟨{ ctrl := c49, addr := 1 }, { ctrl := c49, addr := 1 }, rfl, v2, v2, by decide, by decide, rfl⟩

theorem witness_TooMuchDataOverflows : 246 < tooLong.data.length ∧ 246 < u247.data.length := by decide +kernel

theorem witness_FeedJudgesTheFirstByte :
    State.reset.cnt = 0 ∧ (0x11 : Byte) ≠ 0x10 ∧ (0x11 : Byte) ≠ 0x68 ∧
    ∀ b ∈ [(0x0f : Byte), 0x11, 0x67, 0x69], b ≠ 0x10 ∧ b ≠ 0x68 := by decide

/-- The second byte of a variable frame, a byte of a fixed frame, and the last index of PRS.BUF. -/
theorem witness_FeedStoresInsideAFrame :
    (let s := fed [0x68] State.reset;
      s.cnt ≠ 0 ∧ s.cnt.toNat ≤ 260 ∧ Memory.read s.buf 0 = 0x68 ∧ s.cnt = 1) ∧
    (let s := fed [0x10] State.reset;
      s.cnt ≠ 0 ∧ s.cnt.toNat ≤ 260 ∧ ¬(Memory.read s.buf 0 = 0x68 ∧ s.cnt = 1) ∧ s.cnt.toNat + 1 ≠ s.tot.toNat) ∧
    (let s : State := { State.reset with buf := [(0, 0x68)], cnt := 260, tot := 6 };
      s.cnt ≠ 0 ∧ s.cnt.toNat ≤ 260 ∧ ¬(Memory.read s.buf 0 = 0x68 ∧ s.cnt = 1) ∧ s.cnt.toNat + 1 ≠ s.tot.toNat) := by decide

/-- With the right checksum, and with a wrong one. -/
theorem witness_FeedCompletesAFixedFrame :
    (let s := fed [0x10, 0x49, 0x0c, 0x87, 0xdc] State.reset;
      s.cnt = 5 ∧ s.tot = 6 ∧ Memory.read s.buf 0 = 0x10 ∧ IsSum (Memory.read s.buf 4) [0x49, 0x0c, 0x87]) ∧
    (let s := fed [0x10, 0x49, 0x0c, 0x87, 0xdd] State.reset;
      s.cnt = 5 ∧ s.tot = 6 ∧ Memory.read s.buf 0 = 0x10 ∧ ¬IsSum (Memory.read s.buf 4) [0x49, 0x0c, 0x87]) := by
  simp only [IsSum]
  decide

/-- The premises that every clause shares, at the shortest length that is too short, at 9 and at 255. -/
theorem witness_FeedCompletesAVariableFrame :
    ∀ l, l = (0x00 : Byte) ∨ l = 0x08 ∨ l = 0x09 ∨ l = 0xff → let s := beforeLast l l 0x68 0;
      Memory.read s.buf 0 = 0x68 ∧ Memory.read s.buf 1 = l ∧ s.cnt.toNat = l.toNat + 5 ∧ s.tot.toNat = l.toNat + 6 := by
  rintro l (rfl | rfl | rfl | rfl) <;> decide

/-- The clauses in order at `L = 9`: byte 2, byte 3, the checksum and the end byte wrong, and all right. -/
theorem witness_FeedCompletesAVariableFrame_clauses :
    (8 : Byte).toNat < 9 ∧ 9 ≤ (9 : Byte).toNat ∧
    Memory.read (beforeLast 9 8 0x68 0).buf 2 ≠ 9 ∧
    (Memory.read (beforeLast 9 9 0x69 0).buf 2 = 9 ∧ Memory.read (beforeLast 9 9 0x69 0).buf 3 ≠ 0x68) ∧
    (let s := fed (v2Bytes.take 13 ++ [0xc3]) State.reset;
      Memory.read s.buf 1 = 9 ∧ s.cnt.toNat = 14 ∧ s.tot.toNat = 15 ∧ Memory.read s.buf 2 = 9 ∧ Memory.read s.buf 3 = 0x68 ∧
      ¬IsSum (Memory.read s.buf 13) ((List.range 9).map fun k => Memory.read s.buf (4 + k))) ∧
    (let s := fed (v2Bytes.take 14) State.reset;
      Memory.read s.buf 1 = 9 ∧ s.cnt.toNat = 14 ∧ s.tot.toNat = 15 ∧ Memory.read s.buf 2 = 9 ∧ Memory.read s.buf 3 = 0x68 ∧
      IsSum (Memory.read s.buf 13) ((List.range 9).map fun k => Memory.read s.buf (4 + k))) := by
  simp only [IsSum]
  decide

theorem witness_FeedBeyondTheBufferFaults : 261 ≤ { State.reset with cnt := 261 }.cnt.toNat := by decide

theorem witness_ParseChecksTheSequenceLength :
    (0x55 : Byte) ≠ 0x10 ∧ (0x55 : Byte) ≠ 0x68 ∧ [(0x49 : Byte), 0x0c, 0x87, 0xdc].length ≠ 5 ∧
    [(0x49 : Byte), 0x0c, 0x87, 0xdc, 0x16, 0x00].length ≠ 5 ∧ ([] : List Byte).length ≠ (0 : Byte).toNat + 4 ∧
    (List.replicate 14 (0 : Byte)).length ≠ (9 : Byte).toNat + 4 := by decide

theorem witness_ParseJudgesAVariableFrame :
    (List.replicate 12 (0 : Byte)).length = (8 : Byte).toNat + 4 ∧ (8 : Byte).toNat < 9 ∧
    (9 : Byte).toNat = 9 + ([] : List Byte).length ∧ (255 : Byte).toNat = 9 + longest.data.length := by decide +kernel

theorem witness_ParseAgreesWithFeed :
    State.reset.cnt = 0 ∧ State.reset.tot = 0 ∧
    ([(0x10 : Byte), 0x49, 0x0c, 0x87, 0xdc, 0x16].head? = some 0x10 ∧
      [(0x10 : Byte), 0x49, 0x0c, 0x87, 0xdc, 0x16].length = 6) ∧
    v2Bytes = 0x68 :: 0x09 :: v2Bytes.drop 2 ∧ v2Bytes.length = (0x09 : Byte).toNat + 6 := by decide

theorem witness_FrameRoundTrip :
    longest.data.length ≤ 246 ∧ gives (.parse v2Bytes) State.reset = some (.result (.value (.varFrame v2))) ∧
    gives (.parse [0x10, 0x49, 0x0c, 0x87, 0xdc, 0x16]) State.reset =
      some (.result (.value (.fixFrame { ctrl := c49, addr := 34572 }))) := by decide +kernel

theorem witness_BuiltFramesFedBackAreReturned : State.reset.cnt = 0 ∧ v2.data.length ≤ 246 ∧ longest.data.length ≤ 246 := by
  decide +kernel

/-- The first and the last summed byte, of a fixed frame and of V2. -/
theorem witness_AChangedSummedByteIsCaught :
    exec (.fixbld { ctrl := c49, addr := 34572 }) State.reset =
      .next { State.reset with response := .result (.value (.bytes [0x10, 0x49, 0x0c, 0x87, 0xdc, 0x16])) } ∧
    [(0x10 : Byte), 0x49, 0x0c, 0x87, 0xdc, 0x16].getD 1 0 ≠ 0x48 ∧
    [(0x10 : Byte), 0x49, 0x0c, 0x87, 0xdc, 0x16].getD 3 0 ≠ 0x86 ∧
    exec (.varbld v2) State.reset = .next { State.reset with response := .result (.value (.bytes v2Bytes)) } ∧
    v2Bytes.getD 4 0 ≠ 0x52 ∧ 12 ≤ v2.data.length + 12 ∧ v2Bytes.getD 12 0 ≠ 0xff :=
  ⟨rfl, by decide, by decide, rfl, by decide, by decide, by decide⟩

theorem witness_UserdataBuildsTheMessageRequest : u246.data.length ≤ 246 ∧ 246 < u247.data.length := by decide +kernel

/-- An item that issues a frame-count bit, RESET, and one that does neither; each completes. -/
theorem witness_OnlyIssuingInvertsTheFrameCountBit :
    (exec .class2 linked = .next (after .class2 linked) ∧ issuesFrameCount .class2 = true) ∧
    issuesFrameCount (.userdata u5) = true ∧ issuesFrameCount (.userdata u247) = false ∧
    (exec .reset linked = .next (after .reset linked)) ∧
    (exec .linkstat linked = .next (after .linkstat linked) ∧ issuesFrameCount .linkstat = false) :=
  ⟨⟨rfl, rfl⟩, by decide, by decide +kernel, rfl, rfl, rfl⟩

/-- Each of the four operations that can return an error, with one. -/
theorem witness_AnErrorResultIsRecorded :
    gives (.feed 0x55) State.reset = failed .badStartByte ∧ gives (.parse []) State.reset = failed .lengthMismatch ∧
    gives (.varbld tooLong) State.reset = failed .buildOverflow ∧ gives (.userdata u247) State.reset = failed .buildOverflow := by
  decide +kernel

/-- All five flags set, then a FEED that returns no error and one that returns one. -/
theorem witness_TheErrorRecordStaysUntilCleared :
    let s : State := { State.reset with eBsb := 1, eLen := 1, eChk := 1, eEnd := 1, eBld := 1 }
    (s.eBsb = 1 ∧ s.eLen = 1 ∧ s.eChk = 1 ∧ s.eEnd = 1 ∧ s.eBld = 1) ∧ gives (.feed 0x68) s = noValue ∧
    gives (.feed 0x55) s = failed .badStartByte ∧ feedsParser (.linkstat) = false := by decide

theorem parserInv_staleA : ParserInv staleA := by
  constructor <;> decide

theorem witness_WireFramesFeedTheParser : State.reset.cnt = 0 ∧ 8 ≤ (8 : Byte).toNat ∧ 8 ≤ (255 : Byte).toNat := by decide

/-- A fixed frame's bytes in the middle of a variable frame, and in a state whose CNT is outside PRS.BUF. -/
theorem witness_WireFramesFeedTheParser_inside :
    ParserInv staleA ∧ staleA.cnt ≠ 0 ∧
    runOps ([0x10, 0x49, 0x0c, 0x87, 0xdc, 0x16].map .feed) staleA =
      .next (after (.feed 0x16) (fed [0x10, 0x49, 0x0c, 0x87, 0xdc] staleA), List.replicate 6 (.result .none)) ∧
    runOps ([0x10, 0x49, 0x0c, 0x87, 0xdc, 0x16].map .feed) { State.reset with cnt := 261 } = .fault (.bufferIndex 261) :=
  ⟨parserInv_staleA, by decide, rfl, rfl⟩

theorem witness_WireFieldsAreDecoded : State.reset.cfg.t7Order = .secLow ∧ msLow.cfg.t7Order = .msLow := by decide

theorem inv_staleA : staleA.Inv := by
  refine ⟨parserInv_staleA, ?_, by decide⟩
  constructor <;> decide

/-- In the middle of a frame, with FCBNEXT on the port. -/
theorem witness_EveryStepKeepsTheInvariant :
    { staleA with port := [0x18] }.Inv ∧
    step { staleA with port := [0x18] } = .next (after .fcbnext staleA) := by
  refine ⟨⟨?_, ?_, by decide⟩, rfl⟩ <;> constructor <;> decide

theorem witness_TheBufferStaysCanonical :
    Memory.wf staleA.buf = true ∧ exec (.feed 0x0d) staleA = .next (after (.feed 0x0d) staleA) := ⟨by decide, rfl⟩

theorem witness_EveryItemCompletes : staleA.Inv := inv_staleA

theorem witness_EveryRunCompletes : staleA.Inv := inv_staleA

/-- The two states differ, in a byte no operation sees. -/
theorem witness_StaleBytesAreNeverSeen :
    ParserInv staleA ∧ SameButStale staleA staleB ∧ staleA ≠ staleB ∧
    exec (.feed 0x0d) staleA = .next (after (.feed 0x0d) staleA) := by
  refine ⟨parserInv_staleA, ⟨by decide, ?_⟩, by decide, rfl⟩
  intro a ha
  have h : a < 2 := ha
  interval_cases a <;> decide

theorem witness_TheErrorRecordChangesNoBehaviour :
    Instr.rdreg 4 ≠ .rdreg 0 ∧ Instr.rdreg 4 ≠ .rdreg 1 ∧ SameButErrors errA errB ∧ errA ≠ errB ∧
    exec (.rdreg 4) errA = .next (after (.rdreg 4) errA) := by
  unfold SameButErrors
  refine ⟨by decide, by decide, by decide, by decide, rfl⟩

/-- LINKSTAT meets the premises of every clause. -/
theorem witness_RegistersAreWrittenOnlyAsTabled :
    exec .linkstat linked = .next (after .linkstat linked) ∧ feedsParser .linkstat = false ∧
    issuesFrameCount .linkstat = false ∧ Instr.linkstat ≠ .abort ∧ Instr.linkstat ≠ .reset ∧ Instr.linkstat ≠ .errclr :=
  ⟨rfl, rfl, rfl, by decide, by decide, by decide⟩

end Sys2Proof.Tests
end

section
/-! PROOFS. What an item can do to the state, said once; and what it does to the error record. -/

namespace Sys2Proof.Machine

/-! ### What an item can do -/

/-- All that an item `i` issued in the state `s` can leave behind, by the registers it writes (10_state.md R29). -/
inductive Effect (s : State) : Instr → State → Prop
  /-- An answer alone: no register is written. -/
  | replied {i : Instr} (x : Response) : Effect s i (s.respond x)
  /-- One FEED. -/
  | fed {b : Byte} {t : State} {r : Result} (h : feedOne b s = .ok (t, r)) : Effect s (.feed b) (t.answer r)
  /-- The FEEDs of a received frame. -/
  | received {i : Instr} {bs : List Byte} {t : State} {rs : List Result} (hi : feedsParser i = true)
      (hf : ∀ b, i ≠ .feed b) (h : feedAll bs s = .ok (t, rs)) : Effect s i (t.respond (.results rs))
  /-- An error raised by an operation that judges or builds a whole frame. -/
  | raised {i : Instr} (r : Raise) (hi : (∃ m, i = .parse m) ∨ (∃ x, i = .varbld x) ∨ ∃ x, i = .userdata x) :
      Effect s i ((s.errorEntry r).answer (.error r.error))
  /-- A frame-count bit issued (44_sequencer.md R212). -/
  | counted {i : Instr} (hi : issuesFrameCount i = true) (x : Response) : Effect s i (s.toggleFcb.respond x)
  | aborted : Effect s .abort (s.idle.answer .none)
  | wroteDer (v : Address) : Effect s (.wrder v) ({ s with der := v }.answer .none)
  | wroteDirpm (v : Address) : Effect s (.wrpm v) ({ s with dirpm := v }.answer .none)
  | cleared : Effect s .errclr (s.clearErrors.answer .none)
  | reset : Effect s .reset (s.resetRegisters.answer .none)

theorem Effect.of_respond {i : Instr} {s t : State} {x : Response}
    (h : (.next (s.respond x) : Host.Outcome State Fault Refusal) = .next t) : Effect s i t := by
  cases h
  exact .replied x

theorem Effect.of_conclude {i : Instr} {s t : State} {e : Except Raise Value}
    (hi : (∃ m, i = .parse m) ∨ (∃ x, i = .varbld x) ∨ ∃ x, i = .userdata x)
    (h : (.next (finish (s.conclude e)) : Host.Outcome State Fault Refusal) = .next t) : Effect s i t := by
  cases h
  cases e with
  | ok v => exact .replied (.result (.value v))
  | error r => exact .raised r hi

theorem Effect.of_receive {i : Instr} {bs : List Byte} {s t : State} (hi : feedsParser i = true)
    (hf : ∀ b, i ≠ .feed b) (h : receive bs s = .next t) : Effect s i t := by
  obtain ⟨u, rs, hu, rfl⟩ := receive_next h
  exact .received hi hf hu

/-- USERDATA issues a frame-count bit where the data fit and raises BuildOverflow where they do not. -/
theorem Effect.of_userdata {x : UserFields} {s t : State} (h : exec (.userdata x) s = .next t) :
    Effect s (.userdata x) t := by
  by_cases hx : x.data.length ≤ maxData
  · cases (execUserdata_fits hx s).symm.trans h
    exact .counted (i := .userdata x) (decide_eq_true hx) _
  · cases (execUserdata_overflows (Nat.lt_of_not_le hx) s).symm.trans h
    exact .raised _ (.inr (.inr ⟨x, rfl⟩))

/-- An item that completes has one of the effects listed. -/
theorem exec_effect {i : Instr} {s t : State} (h : exec i s = .next t) : Effect s i t := by
  cases i with
  | sum8 | ctrlpk | ctrlup | cotpk | cotup | fixbld | t5enc | t5dec | t7enc | t7dec | rdreg | linkstat | linkrst
  | reserved00 | reserved06 | reserved07 | reserved0A | reserved0B | reserved0F | reserved1D | reserved1E
  | wireControlByte | wireCauseByte | wireTime5 | wireTime7SecLow | wireTime7MsLow => exact .of_respond h
  | parse m => exact .of_conclude (.inl ⟨m, rfl⟩) h
  | varbld x => exact .of_conclude (.inr (.inl ⟨x, rfl⟩)) h
  | userdata x => exact .of_userdata h
  | feed b =>
    obtain ⟨u, r, hu, rfl⟩ := execFeed_next h
    exact .fed hu
  | wireFixedFrame | wireVariableFrameHead => exact .of_receive rfl nofun h
  | fcbnext | class2 =>
    cases h
    exact .counted rfl _
  | abort =>
    cases h
    exact .aborted
  | wrder v =>
    cases h
    exact .wroteDer v
  | wrpm v =>
    cases h
    exact .wroteDirpm v
  | errclr =>
    cases h
    exact .cleared
  | reset =>
    cases h
    exact .reset

/-! ### The error record -/

/-- ERR and the sticky flags of `t` are those of `s`. -/
def ErrorsKept (s t : State) : Prop :=
  t.err = s.err ∧ t.eBsb = s.eBsb ∧ t.eLen = s.eLen ∧ t.eChk = s.eChk ∧ t.eEnd = s.eEnd ∧ t.eBld = s.eBld

theorem ErrorsKept.refl (s : State) : ErrorsKept s s := ⟨rfl, rfl, rfl, rfl, rfl, rfl⟩

/-- A sticky flag that is 1 in `s` is 1 in `t` (10_state.md R31). -/
def FlagsStay (s t : State) : Prop :=
  (s.eBsb = 1 → t.eBsb = 1) ∧ (s.eLen = 1 → t.eLen = 1) ∧ (s.eChk = 1 → t.eChk = 1) ∧ (s.eEnd = 1 → t.eEnd = 1) ∧
    (s.eBld = 1 → t.eBld = 1)

theorem FlagsStay.trans {s t u : State} (h : FlagsStay s t) (h' : FlagsStay t u) : FlagsStay s u := by
  obtain ⟨hbsb, hlen, hchk, hend, hbld⟩ := h
  obtain ⟨hbsb', hlen', hchk', hend', hbld'⟩ := h'
  exact ⟨hbsb' ∘ hbsb, hlen' ∘ hlen, hchk' ∘ hchk, hend' ∘ hend, hbld' ∘ hbld⟩

/-- What an item hands back is no part of the error record. -/
theorem FlagsStay.respond {s t : State} (h : FlagsStay s t) (x : Response) : FlagsStay s (t.respond x) := h

theorem ErrorsKept.flagsStay {s t : State} (h : ErrorsKept s t) : FlagsStay s t := by
  obtain ⟨-, hbsb, hlen, hchk, hend, hbld⟩ := h
  exact ⟨hbsb.trans, hlen.trans, hchk.trans, hend.trans, hbld.trans⟩

/-- The error entry only sets flags. -/
theorem flagsStay_errorEntry (s : State) (r : Raise) : FlagsStay s (s.errorEntry r) := by
  refine ⟨?_, ?_, ?_, ?_, ?_⟩ <;> intro h <;> simp [h]

/-- A byte stored, and the frame left, do not touch the error record. -/
theorem storeByte_errorsKept (b : Byte) (s : State) : ErrorsKept s (storeByte b s).idle := by
  rw [storeByte_eq]
  exact ErrorsKept.refl s

/-- A FEED leaves the error record, or ends with an error entered and returned. -/
theorem feedOne_errors {b : Byte} {s t : State} {r : Result} (h : feedOne b s = .ok (t, r)) :
    ErrorsKept s t ∨ ∃ u x, ErrorsKept s u ∧ t = u.errorEntry x ∧ r = .error x.error := by
  rcases feedOne_cases h with ⟨-, -, rfl, -⟩ | ⟨-, -, rfl, -⟩ | ⟨-, -, -, rfl, rfl⟩ | ⟨-, -, -, rfl, -⟩ | ⟨-, -, -, e⟩
  · exact .inl (.refl s)
  · exact .inl (.refl s)
  · exact .inr ⟨s, _, .refl s, rfl, rfl⟩
  · exact .inl (storeByte_errorsKept b s)
  · rcases conclude_cases (storeByte b s).idle (judgeBuffer (storeByte b s).buf) with ⟨v, -, hc⟩ | ⟨x, -, hc⟩ <;>
      cases e.trans hc
    · exact .inl (storeByte_errorsKept b s)
    · exact .inr ⟨_, x, storeByte_errorsKept b s, rfl, rfl⟩

theorem feedOne_flagsStay {b : Byte} {s t : State} {r : Result} (h : feedOne b s = .ok (t, r)) : FlagsStay s t := by
  rcases feedOne_errors h with kept | ⟨u, x, kept, rfl, -⟩
  · exact kept.flagsStay
  · exact kept.flagsStay.trans (flagsStay_errorEntry u x)

theorem feedAll_flagsStay {bs : List Byte} {s t : State} {rs : List Result} (h : feedAll bs s = .ok (t, rs)) :
    FlagsStay s t :=
  feedAll_keeps (FlagsStay s) (fun _ _ _ _ hu hv => hu.trans (feedOne_flagsStay hv)) (ErrorsKept.refl s).flagsStay h

end Sys2Proof.Machine
end

section
/-! PROOFS. FEED and the invariant of the reachable states: what it keeps, and that every item completes under it. -/

namespace Sys2Proof.Machine

/-! ### BUF's canonical form -/

theorem wf_storeByte {b : Byte} {s : State} (h : Memory.wf s.buf = true) (hb : s.cnt.toNat < bufSize) :
    Memory.wf (storeByte b s).buf = true := by
  rw [storeByte_eq]
  exact Memory.wf_write h hb b

theorem feedOne_keeps_wf {b : Byte} {s t : State} {r : Result} (hs : Memory.wf s.buf = true)
    (h : feedOne b s = .ok (t, r)) : Memory.wf t.buf = true := by
  rcases feedOne_cases h with ⟨-, -, rfl, -⟩ | ⟨-, -, rfl, -⟩ | ⟨-, -, -, rfl, -⟩ | ⟨-, hb, -, rfl, -⟩ | ⟨-, hb, -, e⟩
  · exact Memory.wf_write hs (by decide) b
  · exact Memory.wf_write hs (by decide) b
  · simpa using hs
  · exact wf_storeByte hs hb
  · have ht : t = _ := congrArg Prod.fst e
    rw [ht]
    simpa using wf_storeByte hs hb

/-! ### The parser's invariants (10_state.md R39) -/

/-- The invariants speak of BUF, CNT and TOT only. -/
theorem ParserInv.of_eq {s t : State} (h : ParserInv s) (hbuf : t.buf = s.buf) (hcnt : t.cnt = s.cnt)
    (htot : t.tot = s.tot) : ParserInv t := by
  obtain ⟨hidle, hmarker, hfixed, hlen, hbody, hbound⟩ := h
  constructor <;> simpa only [hbuf, hcnt, htot]

/-- An idle parser meets them, whatever BUF holds. -/
theorem parserInv_of_idle {s : State} (hcnt : s.cnt = 0) (htot : s.tot = 0) : ParserInv s := by
  constructor <;> simp [hcnt, htot]

/-- The start marker of a frame is stored. -/
theorem parserInv_openFixed (s : State) :
    ParserInv { s with buf := Memory.write s.buf 0 startFixed, cnt := 1, tot := 6 } := by
  constructor <;> simp [Memory.read_write, startFixed]

theorem parserInv_openVar (s : State) :
    ParserInv { s with buf := Memory.write s.buf 0 startVar, cnt := 1, tot := 0 } := by
  constructor <;> simp [Memory.read_write, startVar]

/-! ### The byte stored inside a frame -/

@[simp] theorem storeByte_buf (b : Byte) (s : State) : (storeByte b s).buf = Memory.write s.buf s.cnt.toNat b := by
  rw [storeByte_eq]

@[simp] theorem storeByte_cnt (b : Byte) (s : State) : (storeByte b s).cnt = s.cnt + 1 := by
  rw [storeByte_eq]

theorem cnt_pos {s : State} (h : s.cnt ≠ 0) : 0 < s.cnt.toNat :=
  Nat.pos_of_ne_zero fun e => h (BitVec.eq_of_toNat_eq e)

/-- The second byte of a variable frame gives TOT, and no other byte changes it (42_frame_parser.md R152). -/
theorem storeByte_tot {s : State} (h0 : s.cnt ≠ 0) (b : Byte) :
    (storeByte b s).tot = if Memory.read s.buf 0 = startVar ∧ s.cnt = 1 then b.setWidth 9 + 6 else s.tot := by
  have hc : s.cnt + 1 = 2 ↔ s.cnt = 1 := by bv_omega
  simp only [storeByte_eq, read_zero_write h0, hc]

/-- TOT is the length of the frame in BUF, and CNT bytes of it, at least the two that tell the length, are stored. -/
structure FrameUnderWay (s : State) : Prop where
  two_le : 2 ≤ s.cnt.toNat
  cnt_le : s.cnt.toNat ≤ s.tot.toNat
  length : Memory.read s.buf 0 = startFixed ∧ s.tot.toNat = 6 ∨
    Memory.read s.buf 0 = startVar ∧ s.tot.toNat = (Memory.read s.buf 1).toNat + 6

/-- Where a frame has begun, the byte stored next leaves a frame under way. -/
theorem storeByte_frameUnderWay {s : State} (h : ParserInv s) (h0 : s.cnt ≠ 0) (b : Byte) :
    FrameUnderWay (storeByte b s) := by
  have hpos := cnt_pos h0
  have htwo : 2 ≤ (storeByte b s).cnt.toNat := by
    rw [storeByte_cnt, cnt_toNat_succ h.bound]
    omega
  suffices hlen : (storeByte b s).cnt.toNat ≤ (storeByte b s).tot.toNat ∧ _ from ⟨htwo, hlen.1, hlen.2⟩
  rw [storeByte_buf, storeByte_cnt, storeByte_tot h0, read_zero_write h0, cnt_toNat_succ h.bound]
  rcases h.marker h0 with hm | hm
  · obtain ⟨htot, hle⟩ := h.fixed hm h0
    rw [if_neg fun hv => absurd (hm.symm.trans hv.1) (by decide), htot]
    exact ⟨Nat.succ_le_succ hle, .inl ⟨hm, rfl⟩⟩
  · by_cases h1 : s.cnt = 1
    · have hb : (b.setWidth 9 + 6).toNat = b.toNat + 6 := by bv_omega
      rw [if_pos ⟨hm, h1⟩, hb, h1]
      exact ⟨by simp, .inr ⟨hm, by simp [Memory.read_write]⟩⟩
    · have h1' : s.cnt.toNat ≠ 1 := fun e => h1 (BitVec.eq_of_toNat_eq e)
      obtain ⟨htot, hlt⟩ := h.var_body hm (by omega)
      rw [if_neg fun hv => h1 hv.2, Memory.read_write, if_neg (Ne.symm h1')]
      exact ⟨hlt, .inr ⟨hm, htot⟩⟩

/-- A frame under way that is not complete meets the invariants. -/
theorem FrameUnderWay.parserInv {s : State} (h : FrameUnderWay s) (hne : s.cnt ≠ s.tot) : ParserInv s := by
  obtain ⟨h2, hle, hframe⟩ := h
  have hlt : s.cnt.toNat < s.tot.toNat := lt_of_le_of_ne hle fun e => hne (BitVec.eq_of_toNat_eq e)
  have hlen := (Memory.read s.buf 1).isLt
  have h0 : s.cnt ≠ 0 := by rintro e; simp [e] at h2
  have h1 : s.cnt ≠ 1 := by rintro e; simp [e] at h2
  rcases hframe with ⟨hm, htot⟩ | ⟨hm, htot⟩
  · exact ⟨fun e => absurd e h0, fun _ => .inl hm, fun _ _ => ⟨BitVec.eq_of_toNat_eq htot, by omega⟩,
      fun hv => absurd (hm.symm.trans hv) (by decide), fun hv => absurd (hm.symm.trans hv) (by decide), by omega⟩
  · exact ⟨fun e => absurd e h0, fun _ => .inr hm, fun hf => absurd (hm.symm.trans hf) (by decide),
      fun _ e => absurd e h1, fun _ _ => ⟨htot, hlt⟩, by omega⟩

theorem feedOne_keeps_parserInv {b : Byte} {s t : State} {r : Result} (hs : ParserInv s)
    (h : feedOne b s = .ok (t, r)) : ParserInv t := by
  rcases feedOne_cases h with ⟨-, rfl, rfl, -⟩ | ⟨-, rfl, rfl, -⟩ | ⟨-, -, -, rfl, -⟩ | ⟨h0, -, hne, rfl, -⟩ |
    ⟨-, -, -, e⟩
  · exact parserInv_openFixed s
  · exact parserInv_openVar s
  · exact hs.of_eq (by simp) (by simp) (by simp)
  · exact (storeByte_frameUnderWay hs h0 b).parserInv hne
  · have ht : t = _ := congrArg Prod.fst e
    exact parserInv_of_idle (by simp [ht]) (by simp [ht])

theorem ParserInv.cnt_lt {s : State} (h : ParserInv s) : s.cnt.toNat < bufSize := Nat.lt_succ_of_le h.bound

theorem feedOne_parserInv {s : State} (h : ParserInv s) (b : Byte) : ∃ t r, feedOne b s = .ok (t, r) ∧ ParserInv t := by
  obtain ⟨t, r, ht⟩ := feedOne_completes (b := b) h.cnt_lt
  exact ⟨t, r, ht, feedOne_keeps_parserInv h ht⟩

/-! ### ERR and the flags agree -/

theorem ErrorInv.of_kept {s t : State} (h : ErrorInv s) (kept : ErrorsKept s t) : ErrorInv t := by
  obtain ⟨herr, hbsb, hlen, hchk, hend, hbld⟩ := kept
  obtain ⟨hcode, ibsb, ilen, ichk, iend, ibld⟩ := h
  constructor <;> rw [herr] <;> simpa only [hbsb, hlen, hchk, hend, hbld]

/-- The error entry sets the flag its code names (60_exceptions.md R248). -/
theorem errorInv_errorEntry (s : State) (r : Raise) : ErrorInv (s.errorEntry r) := by
  obtain ⟨e, -, -, -⟩ := r
  cases e <;> constructor <;> simp [FrameError.code]

theorem errorInv_of_clear {s : State} (h : s.err = ErrRecord.clear) : ErrorInv s := by
  constructor <;> simp [h, ErrRecord.clear]

theorem feedOne_keeps_errorInv {b : Byte} {s t : State} {r : Result} (hs : ErrorInv s)
    (h : feedOne b s = .ok (t, r)) : ErrorInv t := by
  rcases feedOne_errors h with kept | ⟨u, x, -, rfl, -⟩
  · exact hs.of_kept kept
  · exact errorInv_errorEntry u x

/-! ### The invariant of the reachable states -/

/-- The invariant speaks neither of the port nor of what was handed back, nor of SEQ or the parameters. -/
theorem State.Inv.of_eq {s t : State} (h : s.Inv) (hbuf : t.buf = s.buf) (hcnt : t.cnt = s.cnt) (htot : t.tot = s.tot)
    (kept : ErrorsKept s t) : t.Inv :=
  ⟨h.parser.of_eq hbuf hcnt htot, h.errors.of_kept kept, hbuf ▸ h.memory⟩

theorem State.Inv.respond {s : State} (h : s.Inv) (x : Response) : (s.respond x).Inv :=
  h.of_eq rfl rfl rfl (.refl s)

theorem feedOne_keeps_inv {b : Byte} {s t : State} {r : Result} (hs : s.Inv) (h : feedOne b s = .ok (t, r)) : t.Inv :=
  ⟨feedOne_keeps_parserInv hs.parser h, feedOne_keeps_errorInv hs.errors h, feedOne_keeps_wf hs.memory h⟩

/-- An item that completes keeps the invariant. -/
theorem exec_keeps_inv {i : Instr} {s t : State} (hs : s.Inv) (h : exec i s = .next t) : t.Inv := by
  cases exec_effect h with
  | replied | counted | wroteDer | wroteDirpm => exact hs.of_eq rfl rfl rfl (.refl s)
  | fed hf => exact (feedOne_keeps_inv hs hf).respond _
  | received _ _ ha => exact (feedAll_keeps State.Inv (fun _ _ _ _ => feedOne_keeps_inv) hs ha).respond _
  | raised r _ =>
    have entered : (s.errorEntry r).Inv :=
      ⟨hs.parser.of_eq (by simp) (by simp) (by simp), errorInv_errorEntry s r, by simpa using hs.memory⟩
    exact entered.respond _
  | aborted => exact ⟨parserInv_of_idle rfl rfl, hs.errors.of_kept (.refl s), hs.memory⟩
  | cleared => exact ⟨hs.parser.of_eq rfl rfl rfl, errorInv_of_clear rfl, hs.memory⟩
  | reset => exact ⟨parserInv_of_idle rfl rfl, errorInv_of_clear rfl, hs.memory⟩

/-! ### Every item completes (60_exceptions.md R254) -/

/-- An item that does not feed the parser completes in every state. -/
theorem exec_completes_of_not_feeds {i : Instr} (hi : feedsParser i = false) (s : State) : ∃ t, exec i s = .next t := by
  cases i with
  | feed | wireFixedFrame | wireVariableFrameHead => cases hi
  | userdata x =>
    by_cases hx : x.data.length ≤ maxData
    · exact ⟨_, execUserdata_fits hx s⟩
    · exact ⟨_, execUserdata_overflows (Nat.lt_of_not_le hx) s⟩
  | _ => exact ⟨_, rfl⟩

/-- A received chunk completes where the parser's invariants hold. -/
theorem receive_completes {s : State} (h : ParserInv s) (bs : List Byte) : ∃ t, receive bs s = .next t := by
  obtain ⟨t, rs, ht, -⟩ := feedAll_completes ParserInv (fun b _ hu => feedOne_parserInv hu b) bs h
  exact ⟨_, by rw [receive, ht]⟩

/-- An item completes where the parser's invariants hold. -/
theorem exec_completes {s : State} (h : ParserInv s) (i : Instr) : ∃ t, exec i s = .next t := by
  cases hi : feedsParser i with
  | false => exact exec_completes_of_not_feeds hi s
  | true =>
    cases i with
    | feed b =>
      obtain ⟨t, r, ht, -⟩ := feedOne_parserInv h b
      exact ⟨finish (t, r), by rw [exec, execFeed, ht]⟩
    | wireFixedFrame | wireVariableFrameHead => exact receive_completes h _
    | _ => cases hi

end Sys2Proof.Machine
end

section
/-! PROOFS. Items compute with a few registers only: a relation between two states that keeps those is kept by every item. -/

namespace Sys2Proof.Machine

/-! ### Relations that items respect -/

/-- A relation between states that agree in the registers items compute with, kept by each update of the registers;
and, where the first state meets a condition `P` that FEEDs keep, the same verdict on the frame a byte completes. -/
structure Congruence (P : State → Prop) (R : State → State → Prop) : Prop where
  cfg {s t : State} : R s t → t.cfg = s.cfg
  cnt {s t : State} : R s t → t.cnt = s.cnt
  tot {s t : State} : R s t → t.tot = s.tot
  fcb {s t : State} : R s t → t.fcb = s.fcb
  der {s t : State} : R s t → t.der = s.der
  dirpm {s t : State} : R s t → t.dirpm = s.dirpm
  respond {s t : State} (x : Response) : R s t → R (s.respond x) (t.respond x)
  errorEntry {s t : State} (r : Raise) : R s t → R (s.errorEntry r) (t.errorEntry r)
  clearErrors {s t : State} : R s t → R s.clearErrors t.clearErrors
  toggleFcb {s t : State} : R s t → R s.toggleFcb t.toggleFcb
  idle {s t : State} : R s t → R s.idle t.idle
  resetRegisters {s t : State} : R s t → R s.resetRegisters t.resetRegisters
  writeDer {s t : State} (v : Address) : R s t → R { s with der := v } { t with der := v }
  writeDirpm {s t : State} (v : Address) : R s t → R { s with dirpm := v } { t with dirpm := v }
  openFrame {s t : State} (b : Byte) (n : BitVec 9) : R s t →
    R { s with buf := Memory.write s.buf 0 b, cnt := 1, tot := n } { t with buf := Memory.write t.buf 0 b, cnt := 1, tot := n }
  store {s t : State} (b : Byte) : R s t → s.cnt ≠ 0 → s.cnt.toNat < bufSize → R (storeByte b s) (storeByte b t)
  verdict {s t : State} (b : Byte) : P s → R s t → s.cnt ≠ 0 → (storeByte b s).cnt = (storeByte b s).tot →
    judgeBuffer (storeByte b t).buf = judgeBuffer (storeByte b s).buf
  keep {s t : State} {b : Byte} {r : Result} : P s → feedOne b s = .ok (t, r) → P t

section
variable {P : State → Prop} {R : State → State → Prop} {s t s' : State}

theorem Congruence.of_conclude (hR : Congruence P R) (h : R s t) (e : Except Raise Value) :
    R (s.conclude e).1 (t.conclude e).1 ∧ (t.conclude e).2 = (s.conclude e).2 := by
  cases e with
  | ok v => exact ⟨h, rfl⟩
  | error r => exact ⟨hR.errorEntry r h, rfl⟩

/-- One FEED respects the relation. -/
theorem Congruence.of_feedOne (hR : Congruence P R) (hP : P s) (h : R s t) {b : Byte} {r : Result}
    (he : feedOne b s = .ok (s', r)) : ∃ t', feedOne b t = .ok (t', r) ∧ R s' t' := by
  have hcnt := hR.cnt h
  rcases feedOne_cases he with ⟨h0, rfl, rfl, rfl⟩ | ⟨h0, rfl, rfl, rfl⟩ | ⟨h0, hf, hn, rfl, rfl⟩ |
    ⟨h0, hb, hne, rfl, rfl⟩ | ⟨h0, hb, heq, e⟩ <;> rw [← hcnt] at h0
  · exact ⟨_, feedOne_openFixed h0, hR.openFrame _ _ h⟩
  · exact ⟨_, feedOne_openVar h0, hR.openFrame _ _ h⟩
  · exact ⟨_, feedOne_badStart h0 hf hn, hR.errorEntry _ h⟩
  · have hstore := hR.store b h (hcnt ▸ h0) hb
    rw [← hR.cnt hstore, ← hR.tot hstore] at hne
    refine ⟨_, ?_, hstore⟩
    rw [feedOne_body h0 (hcnt ▸ hb), feedBody, if_pos hne]
  · have hj := hR.verdict b hP h (hcnt ▸ h0) heq
    have hstore := hR.store b h (hcnt ▸ h0) hb
    obtain ⟨hend, hres⟩ := hR.of_conclude (hR.idle hstore) (judgeBuffer (storeByte b s).buf)
    rw [← hR.cnt hstore, ← hR.tot hstore] at heq
    rw [← e] at hend hres
    refine ⟨_, ?_, hend⟩
    rw [feedOne_body h0 (hcnt ▸ hb), feedBody, if_neg (not_not.mpr heq), hj]
    exact congrArg Except.ok (Prod.ext rfl hres)

/-- So does a chunk, where every FEED keeps the condition of the verdict. -/
theorem Congruence.of_feedAll (hR : Congruence P R) (hP : P s) (h : R s t) {bs : List Byte}
    {rs : List Result} (he : feedAll bs s = .ok (s', rs)) : ∃ t', feedAll bs t = .ok (t', rs) ∧ R s' t' := by
  induction bs generalizing s t rs with
  | nil =>
    cases he
    exact ⟨t, rfl, h⟩
  | cons b bs ih =>
    simp only [feedAll] at he ⊢
    split at he
    · cases he
    · next u r hu =>
      split at he
      · cases he
      · next v rs' hv' =>
        cases he
        obtain ⟨u', hu', hRu⟩ := hR.of_feedOne hP h hu
        obtain ⟨v', hv'', hRv⟩ := ih (hR.keep hP hu) hRu hv'
        exact ⟨v', by simp only [hu', hv''], hRv⟩

/-- Two related states handed the same answer. -/
theorem Congruence.of_next (hR : Congruence P R) (h : R s t) {x y : Response} (hxy : y = x)
    (he : (.next (s.respond x) : Host.Outcome State Fault Refusal) = .next s') :
    ∃ t', (.next (t.respond y) : Host.Outcome State Fault Refusal) = .next t' ∧ R s' t' := by
  cases he
  exact ⟨_, rfl, hxy ▸ hR.respond y h⟩

theorem Congruence.of_next_conclude (hR : Congruence P R) (h : R s t) {e : Except Raise Value}
    (he : (.next (finish (s.conclude e)) : Host.Outcome State Fault Refusal) = .next s') :
    ∃ t', (.next (finish (t.conclude e)) : Host.Outcome State Fault Refusal) = .next t' ∧ R s' t' := by
  obtain ⟨hend, hres⟩ := hR.of_conclude h e
  exact hR.of_next hend (congrArg Response.result hres) he

theorem Congruence.of_receive (hR : Congruence P R) (hP : P s) (h : R s t) {bs : List Byte}
    (he : receive bs s = .next s') : ∃ t', receive bs t = .next t' ∧ R s' t' := by
  obtain ⟨u, rs, hu, rfl⟩ := receive_next he
  obtain ⟨u', hu', hRu⟩ := hR.of_feedAll hP h hu
  exact ⟨_, by rw [receive, hu'], hR.respond _ hRu⟩

/-- Every item respects the relation, RDREG where it reads a register the two states agree in. -/
theorem Congruence.of_exec (hR : Congruence P R) (hP : P s) (h : R s t) {i : Instr}
    (hread : ∀ k, i = .rdreg k → t.readReg k = s.readReg k) (he : exec i s = .next s') :
    ∃ t', exec i t = .next t' ∧ R s' t' := by
  have hcfg := hR.cfg h
  have hder := hR.der h
  have hfcb := hR.fcb (hR.toggleFcb h)
  cases i with
  | sum8 | ctrlpk | ctrlup | cotpk | cotup | fixbld | t5enc | t5dec | reserved00 | reserved06 | reserved07 | reserved0A
  | reserved0B | reserved0F | reserved1D | reserved1E | wireControlByte | wireCauseByte | wireTime5 =>
    exact hR.of_next h rfl he
  | t7enc | t7dec | wireTime7SecLow | wireTime7MsLow => exact hR.of_next h (by rw [hcfg]) he
  | linkstat => exact hR.of_next h (by rw [hder]) he
  | linkrst => exact hR.of_next h (by rw [hcfg, hder]) he
  | rdreg k => exact hR.of_next h (by rw [hread k rfl]) he
  | fcbnext => exact hR.of_next (hR.toggleFcb h) (by rw [hfcb]) he
  | class2 => exact hR.of_next (hR.toggleFcb h) (by rw [hfcb, toggleFcb_cfg, toggleFcb_der, hcfg, hder]; rfl) he
  | abort => exact hR.of_next (hR.idle h) rfl he
  | wrder v => exact hR.of_next (hR.writeDer v h) rfl he
  | wrpm v => exact hR.of_next (hR.writeDirpm v h) rfl he
  | errclr => exact hR.of_next (hR.clearErrors h) rfl he
  | reset => exact hR.of_next (hR.resetRegisters h) rfl he
  | varbld | parse => exact hR.of_next_conclude h he
  | userdata x =>
    have hframe : userFrame x t.toggleFcb = userFrame x s.toggleFcb := by
      simp only [userFrame, hfcb, toggleFcb_cfg, toggleFcb_der, toggleFcb_dirpm, hcfg, hder, hR.dirpm h]
    simp only [exec, execUserdata] at he ⊢
    split at he
    · next hx =>
      rw [if_pos hx]
      exact hR.of_next (hR.errorEntry _ h) rfl he
    · next hx =>
      rw [if_neg hx, hframe]
      exact hR.of_next_conclude (hR.toggleFcb h) he
  | feed b =>
    obtain ⟨u, r, hu, rfl⟩ := execFeed_next he
    obtain ⟨u', hu', hRu⟩ := hR.of_feedOne hP h hu
    exact ⟨finish (u', r), by rw [exec, execFeed, hu'], hR.respond _ hRu⟩
  | wireFixedFrame | wireVariableFrameHead => exact hR.of_receive hP h he

end

/-! ### The stale bytes of BUF (10_state.md R21) -/

/-- A state with other bytes in BUF, the same below CNT. -/
theorem SameButStale.exists_buf {s t : State} (h : SameButStale s t) :
    ∃ m, t = { s with buf := m } ∧ ∀ a, a < s.cnt.toNat → Memory.read m a = Memory.read s.buf a :=
  ⟨t.buf, h⟩

/-- An update that neither reads nor writes BUF, and does not raise CNT, keeps the relation. -/
theorem SameButStale.map {s t : State} (f : State → State) (h : SameButStale s t)
    (hf : ∀ (u : State) (m : List Host.Cell), f { u with buf := m } = { f u with buf := m })
    (hbuf : ∀ u, (f u).buf = u.buf) (hcnt : ∀ u, (f u).cnt.toNat ≤ u.cnt.toNat) : SameButStale (f s) (f t) := by
  obtain ⟨m, rfl, hm⟩ := h.exists_buf
  rw [hf s m]
  exact ⟨rfl, fun a ha => (hm a (ha.trans_le (hcnt s))).trans (by rw [hbuf s])⟩

/-- The byte stored next to bytes below CNT that agree leaves bytes below CNT that agree. -/
theorem SameButStale.store {s t : State} (h : SameButStale s t) (h0 : s.cnt ≠ 0) (hb : s.cnt.toNat < bufSize) (b : Byte) :
    SameButStale (storeByte b s) (storeByte b t) := by
  obtain ⟨m, rfl, hm⟩ := h.exists_buf
  have hpos := cnt_pos h0
  refine ⟨?_, fun a ha => ?_⟩
  · rw [storeByte_eq, storeByte_eq]
    simp only [read_zero_write h0, Memory.read_write, Nat.ne_of_lt hpos, if_false, hm 0 hpos]
  · rw [storeByte_cnt, cnt_toNat_succ (Nat.le_of_lt_succ hb)] at ha
    rw [storeByte_buf, storeByte_buf, Memory.read_write, Memory.read_write]
    by_cases e : a = s.cnt.toNat
    · rw [if_pos e, if_pos e]
    · rw [if_neg e, if_neg e, hm a (by omega)]

/-- The verdict on a complete frame looks at the bytes of the frame only. -/
theorem FrameUnderWay.judgeBuffer_eq {s : State} (h : FrameUnderWay s) (hc : s.cnt = s.tot) {m : List Host.Cell}
    (hm : ∀ a, a < s.cnt.toNat → Memory.read m a = Memory.read s.buf a) : judgeBuffer m = judgeBuffer s.buf := by
  have h2 := h.two_le
  have hm0 := hm 0 (by omega)
  have hm1 := hm 1 (by omega)
  have hslice {n : Nat} (hn : s.tot.toNat = n) : Memory.slice m 0 n = Memory.slice s.buf 0 n :=
    Memory.slice_congr fun k _ hk => hm k (by rw [hc]; omega)
  rcases h.length with ⟨hmark, htot⟩ | ⟨hmark, htot⟩
  · rw [judgeBuffer_fixed hmark, judgeBuffer_fixed (hm0.trans hmark), hslice htot]
  · rw [judgeBuffer_var hmark, judgeBuffer_var (hm0.trans hmark), hm1, hslice htot]

/-- The error entry and BUF are apart. -/
theorem errorEntry_withBuf (s : State) (m : List Host.Cell) (r : Raise) :
    { s with buf := m }.errorEntry r = { s.errorEntry r with buf := m } := by
  obtain ⟨e, -, -, -⟩ := r
  cases e <;> rfl

/-- Every update, and the verdict under R39's invariants, keeps the bytes below CNT and looks at no others. -/
theorem sameButStale_congruence : Congruence ParserInv SameButStale where
  cfg h := (congrArg State.cfg h.1 :)
  cnt h := (congrArg State.cnt h.1 :)
  tot h := (congrArg State.tot h.1 :)
  fcb h := (congrArg State.fcb h.1 :)
  der h := (congrArg State.der h.1 :)
  dirpm h := (congrArg State.dirpm h.1 :)
  respond x h := h.map (·.respond x) (fun _ _ => rfl) (fun _ => rfl) fun _ => le_rfl
  errorEntry r h := h.map (·.errorEntry r) (fun s m => errorEntry_withBuf s m r) (by simp) (by simp)
  clearErrors h := h.map State.clearErrors (fun _ _ => rfl) (fun _ => rfl) fun _ => le_rfl
  toggleFcb h := h.map State.toggleFcb (fun _ _ => rfl) (fun _ => rfl) fun _ => le_rfl
  idle h := h.map State.idle (fun _ _ => rfl) (fun _ => rfl) fun _ => Nat.zero_le _
  resetRegisters h := h.map State.resetRegisters (fun _ _ => rfl) (fun _ => rfl) fun _ => Nat.zero_le _
  writeDer v h := h.map ({ · with der := v }) (fun _ _ => rfl) (fun _ => rfl) fun _ => le_rfl
  writeDirpm v h := h.map ({ · with dirpm := v }) (fun _ _ => rfl) (fun _ => rfl) fun _ => le_rfl
  openFrame b n h := by
    obtain ⟨m, rfl, -⟩ := h.exists_buf
    refine ⟨rfl, fun a ha => ?_⟩
    have ha0 : a = 0 := Nat.lt_one_iff.mp ha
    simp [Memory.read_write, ha0]
  store b h h0 hb := h.store h0 hb b
  verdict b hs h h0 hc := (storeByte_frameUnderWay hs h0 b).judgeBuffer_eq hc (h.store h0 hs.cnt_lt b).2
  keep := feedOne_keeps_parserInv

/-- STATUS.KIND looks at BUF[0] only inside a frame. -/
theorem SameButStale.readReg {s t : State} (h : SameButStale s t) (k : BitVec 3) : t.readReg k = s.readReg k := by
  obtain ⟨m, rfl, hm⟩ := h.exists_buf
  have hkind : State.kind { s with buf := m } = s.kind := by
    by_cases h0 : s.cnt = 0
    · simp [State.kind, h0]
    · have hpos := cnt_pos h0
      simp only [State.kind, hm 0 hpos]
  simp only [State.readReg, State.status, hkind]
  rfl

/-! ### The error record changes no behaviour (10_state.md R31) -/

/-- A state with another error record. -/
theorem SameButErrors.exists_errors {s t : State} (h : SameButErrors s t) :
    ∃ err bsb len chk endb bld,
      t = { s with err := err, eBsb := bsb, eLen := len, eChk := chk, eEnd := endb, eBld := bld } :=
  ⟨_, _, _, _, _, _, h⟩

theorem SameButErrors.errorEntry {s t : State} (h : SameButErrors s t) (r : Raise) :
    SameButErrors (s.errorEntry r) (t.errorEntry r) := by
  obtain ⟨err, bsb, len, chk, endb, bld, rfl⟩ := h.exists_errors
  obtain ⟨e, -, -, -⟩ := r
  cases e <;> rfl

/-- An update that neither reads nor writes the error record keeps the relation. -/
theorem SameButErrors.map {s t : State} (f : State → State) (h : SameButErrors s t)
    (hf : ∀ (u : State) err bsb len chk endb bld, SameButErrors (f u)
      (f { u with err := err, eBsb := bsb, eLen := len, eChk := chk, eEnd := endb, eBld := bld })) :
    SameButErrors (f s) (f t) := by
  obtain ⟨err, bsb, len, chk, endb, bld, rfl⟩ := h.exists_errors
  exact hf s err bsb len chk endb bld

theorem SameButErrors.buf {s t : State} (h : SameButErrors s t) : t.buf = s.buf := (congrArg State.buf h :)

theorem sameButErrors_storeByte (b : Byte) (u : State) (err : ErrRecord) (bsb len chk endb bld : Bit) :
    SameButErrors (storeByte b u)
      (storeByte b { u with err := err, eBsb := bsb, eLen := len, eChk := chk, eEnd := endb, eBld := bld }) := by
  rw [storeByte_eq, storeByte_eq]
  rfl

/-- No update and no verdict looks at the error record. -/
theorem sameButErrors_congruence : Congruence (fun _ => True) SameButErrors where
  cfg h := (congrArg State.cfg h :)
  cnt h := (congrArg State.cnt h :)
  tot h := (congrArg State.tot h :)
  fcb h := (congrArg State.fcb h :)
  der h := (congrArg State.der h :)
  dirpm h := (congrArg State.dirpm h :)
  respond x h := h.map (·.respond x) fun _ _ _ _ _ _ _ => rfl
  errorEntry r h := h.errorEntry r
  clearErrors h := h.map State.clearErrors fun _ _ _ _ _ _ _ => rfl
  toggleFcb h := h.map State.toggleFcb fun _ _ _ _ _ _ _ => rfl
  idle h := h.map State.idle fun _ _ _ _ _ _ _ => rfl
  resetRegisters h := h.map State.resetRegisters fun _ _ _ _ _ _ _ => rfl
  writeDer v h := h.map ({ · with der := v }) fun _ _ _ _ _ _ _ => rfl
  writeDirpm v h := h.map ({ · with dirpm := v }) fun _ _ _ _ _ _ _ => rfl
  openFrame b n h :=
    h.map (fun u => { u with buf := Memory.write u.buf 0 b, cnt := 1, tot := n }) fun _ _ _ _ _ _ _ => rfl
  store b h _ _ := h.map (storeByte b) (sameButErrors_storeByte b)
  verdict b _ h _ _ := congrArg judgeBuffer (h.map (storeByte b) (sameButErrors_storeByte b)).buf
  keep _ _ := trivial

/-- Registers 0 and 1 are STATUS and ERR; no other register shows the error record. -/
theorem SameButErrors.readReg {s t : State} (h : SameButErrors s t) {k : BitVec 3} (h0 : k ≠ 0) (h1 : k ≠ 1) :
    t.readReg k = s.readReg k := by
  obtain ⟨err, bsb, len, chk, endb, bld, rfl⟩ := h.exists_errors
  simp only [State.readReg]
  split
  · next e => exact absurd (BitVec.eq_of_toNat_eq e) h0
  · next e => exact absurd (BitVec.eq_of_toNat_eq e) h1
  all_goals rfl

end Sys2Proof.Machine
end

section
/-! PROOFS. STATUS and ERR as numbers. -/

namespace Sys2Proof.Machine

/-! ### STATUS and ERR as numbers (10_state.md R30, R33) -/

theorem busy_toNat (s : State) : s.busy.toNat = if s.cnt ≠ 0 then 1 else 0 :=
  apply_ite BitVec.toNat _ _ _

theorem kind_toNat (s : State) : s.kind.toNat = if s.cnt ≠ 0 ∧ Memory.read s.buf 0 = 0x68 then 1 else 0 :=
  apply_ite BitVec.toNat _ _ _

theorem lenKnown_toNat (s : State) : s.lenKnown.toNat = if s.tot ≠ 0 then 1 else 0 :=
  apply_ite BitVec.toNat _ _ _

/-- Each field of STATUS at its bit. -/
theorem status_toNat (s : State) : s.status.toNat =
    s.busy.toNat + 2 * s.kind.toNat + 4 * s.lenKnown.toNat + 8 * s.fcb.toNat + 256 * s.eBsb.toNat + 512 * s.eLen.toNat +
      1024 * s.eChk.toNat + 2048 * s.eEnd.toNat + 4096 * s.eBld.toNat := by
  simp only [State.status, toNat_append_add, BitVec.toNat_ofNat]
  omega

/-- Each field of ERR at its bits. -/
theorem errWord_toNat (e : ErrRecord) :
    e.word.toNat = e.code.toNat + 128 * e.pos.toNat + 65536 * e.got.toNat + 16777216 * e.exp.toNat := by
  simp only [ErrRecord.word, toNat_append_add, BitVec.toNat_ofNat]
  omega

end Sys2Proof.Machine
end

section
/-! PROOFS. The obligations about the state (10_state.md), each from the lemmas above. -/

namespace Sys2Proof.Machine

/-- Settles O53: a step waits, or takes an item off the port and runs it. -/
theorem everyStepKeepsTheInvariant : Obligations.EveryStepKeepsTheInvariant := by
  intro s t hs h
  rcases fetch_cases s with ⟨-, hf⟩ | ⟨i, rest, -, hf⟩ | ⟨e, -, -, hf⟩ <;> rw [step, hf] at h
  · cases h
    exact hs
  · have taken : { s with port := rest }.Inv := hs.of_eq rfl rfl rfl (.refl s)
    exact exec_keeps_inv taken h
  · cases h

/-- Settles O57, by induction on the sequence of items. -/
theorem everyRunCompletes : Obligations.EveryRunCompletes := by
  intro is
  induction is with
  | nil => exact fun s hs => ⟨s, [], rfl, hs, rfl⟩
  | cons i is ih =>
    intro s hs
    obtain ⟨t, ht⟩ := exec_completes hs.parser i
    obtain ⟨u, rs, hu, hinv, hlen⟩ := ih t (exec_keeps_inv hs ht)
    exact ⟨u, t.response :: rs, by simp only [runOps, ht, hu], hinv, congrArg Nat.succ hlen⟩

/-- Settles O58: "equal but for stale bytes" is a relation every item respects. -/
theorem staleBytesAreNeverSeen : Obligations.StaleBytesAreNeverSeen :=
  fun _ _ _ _ hs h he => sameButStale_congruence.of_exec hs h (fun k _ => h.readReg k) he

/-- Settles O44, register by register; STATUS and ERR by the numbers their fields make. -/
theorem rdregReadsTheRegisters : Obligations.RdregReadsTheRegisters := by
  intro k s
  have wide {w : Nat} (hw : w ≤ 32) (v : BitVec w) : (v.setWidth 32).toNat = v.toNat :=
    BitVec.toNat_setWidth_of_le hw
  refine ⟨s.readReg k, rfl, ?_, ?_, ?_, ?_, ?_, ?_, ?_, rfl⟩
  · rintro rfl
    rw [← busy_toNat, ← kind_toNat, ← lenKnown_toNat, ← status_toNat]
    exact wide (by decide) s.status
  · rintro rfl
    exact errWord_toNat s.err
  · rintro rfl
    exact wide (by decide) s.der
  · rintro rfl
    exact wide (by decide) s.dirpm
  · rintro rfl
    exact wide (by decide) s.cnt
  · rintro rfl
    exact wide (by decide) s.tot
  · rintro (rfl | rfl) <;> rfl

/-- Settles O47: the effects that touch the error record but for ERRCLR and RESET are the error entry's. -/
theorem theErrorRecordStaysUntilCleared : Obligations.TheErrorRecordStaysUntilCleared := by
  intro i s t h hclr hrst
  cases exec_effect h with
  | replied | counted | aborted | wroteDer | wroteDirpm =>
    exact ⟨(ErrorsKept.refl s).flagsStay, fun _ _ => ErrorsKept.refl s⟩
  | fed hf =>
    refine ⟨(feedOne_flagsStay hf).respond _, fun _ hne => ?_⟩
    rcases feedOne_errors hf with kept | ⟨-, x, -, -, rfl⟩
    · exact kept
    · exact absurd rfl (hne x.error)
  | received hi hf ha =>
    refine ⟨(feedAll_flagsStay ha).respond _, fun hp _ => ?_⟩
    rcases hp with ⟨b, hb⟩ | hn
    · exact absurd hb (hf b)
    · exact absurd (hi.symm.trans hn) (by decide)
  | raised r hi => exact ⟨flagsStay_errorEntry s r, fun _ hne => absurd rfl (hne r.error)⟩
  | cleared => exact absurd rfl hclr
  | reset => exact absurd rfl hrst

/-- Settles O55: the one write to BUF lies inside it. -/
theorem theBufferStaysCanonical : Obligations.TheBufferStaysCanonical := by
  intro i s t hs h
  cases exec_effect h with
  | fed hf => simpa using feedOne_keeps_wf hs hf
  | received _ _ ha =>
    simpa using feedAll_keeps (Memory.wf ·.buf = true) (fun _ _ _ _ => feedOne_keeps_wf) hs ha
  | raised r _ => simpa using hs
  | replied | counted | aborted | wroteDer | wroteDirpm | cleared | reset => exact hs

/-- Settles O59: "equal but for the error record" is a relation every item respects. -/
theorem theErrorRecordChangesNoBehaviour : Obligations.TheErrorRecordChangesNoBehaviour := by
  intro i s t s' h0 h1 h he
  refine sameButErrors_congruence.of_exec trivial h (fun k hk => h.readReg ?_ ?_) he
  · rintro rfl
    exact h0 hk
  · rintro rfl
    exact h1 hk

/-- Settles O60: each effect names the registers it writes, and the items that can have it. -/
theorem registersAreWrittenOnlyAsTabled : Obligations.RegistersAreWrittenOnlyAsTabled := by
  intro i s t h
  cases exec_effect h with
  | replied x => simp
  | fed hf =>
    obtain ⟨hcfg, hport, hfcb, hder, hdirpm⟩ := feedOne_frame hf
    simp [feedsParser, hcfg, hport, hfcb, hder, hdirpm]
  | received hi hf ha =>
    obtain ⟨hcfg, hport, hfcb, hder, hdirpm⟩ := feedAll_frame ha
    simp [hi, hcfg, hport, hfcb, hder, hdirpm]
  | raised r hi =>
    rcases hi with ⟨m, rfl⟩ | ⟨x, rfl⟩ | ⟨x, rfl⟩ <;> simp
  | counted hi x => simp [hi]
  | aborted => simp
  | wroteDer v => simp
  | wroteDirpm v => simp
  | cleared => simp
  | reset => simp

/-- Settles O4, by what taking an item off the port can answer. -/
theorem stepRunsTheDecodedItem : Obligations.StepRunsTheDecodedItem := by
  intro s i rest h
  rcases fetch_cases s with ⟨hp, -⟩ | ⟨j, r, hd, hf⟩ | ⟨e, -, hd, -⟩
  · rw [hp] at h
    cases h
  · cases hd.symm.trans h
    rw [step, hf]
  · cases hd.symm.trans h

/-- Settles O49: of STATUS only FCB is left. -/
theorem powerOnIsTheResetState : Obligations.PowerOnIsTheResetState := by
  intro c
  have hstatus : (State.powerOn c).status.toNat = 8 * c.fcbReset.toNat := by
    rw [status_toNat, busy_toNat, kind_toNat, lenKnown_toNat]
    simp [State.powerOn]
  exact ⟨rfl, rfl, rfl, rfl, rfl, rfl, rfl, rfl, rfl, rfl, rfl, hstatus⟩

/-- Settles O54: the parser is idle and no error is recorded. -/
theorem powerOnMeetsTheInvariant : Obligations.PowerOnMeetsTheInvariant := by
  have powerOn (c : Config) : (State.powerOn c).Inv := ⟨parserInv_of_idle rfl rfl, errorInv_of_clear rfl, rfl⟩
  exact ⟨powerOn, powerOn _⟩

end Sys2Proof.Machine
end

section
/-! PROOFS. A chunk of FEEDs as one store: the bytes inside a frame, the head of a frame, a whole fixed frame. -/

namespace Sys2Proof.Machine

/-! ### FEED outside PRS.BUF (20_memory.md R52; assumption log 9) -/

theorem feedOne_outside {s : State} (h : bufSize ≤ s.cnt.toNat) (b : Byte) :
    feedOne b s = .error (.bufferIndex s.cnt.toNat) := by
  have h0 : s.cnt ≠ 0 := by
    intro e
    simp [e] at h
  rw [feedOne, if_neg h0, if_neg (Nat.not_lt.mpr h)]

/-! ### Bytes written one after another -/

/-- `BUF[i .. i+n-1] <- bs`, as FEEDs inside a frame leave it. -/
def Memory.writeAll : List Host.Cell → Nat → List Byte → List Host.Cell
  | m, _, [] => m
  | m, i, b :: bs => Memory.writeAll (Memory.write m i b) (i + 1) bs

/-- Each byte stands at its index, and every other index holds what it held. -/
theorem Memory.read_writeAll (m : List Host.Cell) (i : Nat) (bs : List Byte) (a : Nat) :
    Memory.read (Memory.writeAll m i bs) a =
      if i ≤ a ∧ a < i + bs.length then bs.getD (a - i) 0 else Memory.read m a := by
  induction bs generalizing m i with
  | nil => rw [writeAll, if_neg (by simp)]
  | cons b bs ih =>
    rw [writeAll, ih, read_write, List.length_cons]
    rcases Nat.lt_trichotomy a i with hlt | rfl | hgt
    · rw [if_neg (by omega), if_neg (by omega), if_neg (by omega)]
    · rw [if_neg (by omega), if_pos rfl, if_pos (by omega), Nat.sub_self, List.getD_cons_zero]
    · obtain ⟨k, rfl⟩ := Nat.exists_eq_add_of_lt hgt
      have hk : i + k + 1 - (i + 1) = k := by omega
      have hk' : i + k + 1 - i = k + 1 := by omega
      rw [if_neg (by omega : i + k + 1 ≠ i), hk, hk', List.getD_cons_succ]
      exact if_congr (by omega) rfl rfl

/-- A whole frame, from index 0 on. -/
theorem Memory.read_writeAll_zero (m : List Host.Cell) (bs : List Byte) (a : Nat) :
    Memory.read (Memory.writeAll m 0 bs) a = if a < bs.length then bs.getD a 0 else Memory.read m a := by
  rw [read_writeAll]
  exact if_congr (by simp) rfl rfl

theorem Memory.slice_writeAll (m : List Host.Cell) (i : Nat) (bs : List Byte) :
    Memory.slice (Memory.writeAll m i bs) i bs.length = bs := by
  induction bs generalizing m i with
  | nil => rfl
  | cons b bs ih =>
    have hb : read (writeAll m i (b :: bs)) i = b := by
      rw [read_writeAll, if_pos (by simp), Nat.sub_self, List.getD_cons_zero]
    rw [List.length_cons, slice, hb, writeAll, ih]

/-! ### Bytes stored inside a frame -/

/-- The bytes of a chunk at `BUF[CNT]` and above, and counted (42_frame_parser.md R152). -/
def State.storeAll (s : State) (bs : List Byte) : State :=
  { s with buf := Memory.writeAll s.buf s.cnt.toNat bs, cnt := s.cnt + BitVec.ofNat 9 bs.length }

theorem storeAll_nil (s : State) : s.storeAll [] = s := by
  simp [State.storeAll, Memory.writeAll]

theorem storeAll_cons {s : State} (h : s.cnt.toNat ≤ 260) (b : Byte) (bs : List Byte) :
    s.storeAll (b :: bs) =
      { s with buf := Memory.write s.buf s.cnt.toNat b, cnt := s.cnt + 1 }.storeAll bs := by
  have hcnt : s.cnt + BitVec.ofNat 9 (bs.length + 1) = s.cnt + 1 + BitVec.ofNat 9 bs.length := by
    rw [Nat.add_comm, BitVec.ofNat_add, BitVec.add_assoc]
    rfl
  simp only [State.storeAll, Memory.writeAll, List.length_cons, cnt_toNat_succ h, hcnt]

/-- Inside a frame whose length is known and has room in PRS.BUF, with bytes of it still to come. Of a variable frame the
second byte tells the length. -/
structure LengthKnown (s : State) : Prop where
  begun : s.cnt ≠ 0
  told : ¬(Memory.read s.buf 0 = startVar ∧ s.cnt = 1)
  cnt_lt : s.cnt.toNat < s.tot.toNat
  tot_le : s.tot.toNat ≤ 261

theorem LengthKnown.cnt_le {s : State} (h : LengthKnown s) : s.cnt.toNat ≤ 260 :=
  Nat.le_of_lt_succ (h.cnt_lt.trans_le h.tot_le)

/-- A byte that does not complete the frame leaves bytes to come. -/
theorem LengthKnown.more {s : State} (h : LengthKnown s) (ht : s.cnt.toNat + 1 < s.tot.toNat) (b : Byte) :
    LengthKnown { s with buf := Memory.write s.buf s.cnt.toNat b, cnt := s.cnt + 1 } := by
  have hpos := cnt_pos h.begun
  have hcnt := cnt_toNat_succ h.cnt_le
  have two_le {v : BitVec 9} (hv : v.toNat < 2) : s.cnt + 1 ≠ v := by
    rintro rfl
    omega
  exact ⟨two_le (by decide), fun hv => two_le (by decide) hv.2, hcnt.trans_lt ht, h.tot_le⟩

theorem feedAll_cons {b : Byte} {bs : List Byte} {s t u : State} {r : Result} {rs : List Result}
    (h : feedOne b s = .ok (t, r)) (hs : feedAll bs t = .ok (u, rs)) : feedAll (b :: bs) s = .ok (u, r :: rs) := by
  simp only [feedAll, h, hs]

/-- Bytes that do not complete the frame are stored and counted. -/
theorem feedAll_stores (bs : List Byte) {s : State} (h : LengthKnown s) (hlt : s.cnt.toNat + bs.length < s.tot.toNat) :
    feedAll bs s = .ok (s.storeAll bs, List.replicate bs.length .none) := by
  induction bs generalizing s with
  | nil =>
    rw [storeAll_nil]
    rfl
  | cons b bs ih =>
    rw [List.length_cons] at hlt
    rw [storeAll_cons h.cnt_le]
    refine feedAll_cons (feedOne_more h.begun h.cnt_le h.told (by omega) b) (ih (h.more (by omega) b) ?_)
    simp only [cnt_toNat_succ h.cnt_le]
    omega

/-- With its last byte the frame lies in BUF, and it is left and judged. -/
theorem feedAll_completesFrame (bs : List Byte) (b : Byte) {s t : State} (h : LengthKnown s)
    (hlast : s.cnt.toNat + bs.length + 1 = s.tot.toNat) (ht : t = (s.storeAll (bs ++ [b])).idle) :
    feedAll (bs ++ [b]) s = .ok ((t.conclude (judgeBuffer t.buf)).1,
      List.replicate bs.length .none ++ [(t.conclude (judgeBuffer t.buf)).2]) := by
  induction bs generalizing s with
  | nil =>
    rw [List.nil_append, storeAll_cons h.cnt_le, storeAll_nil] at ht
    rw [ht]
    exact feedAll_cons (feedOne_last h.begun h.cnt_le h.told hlast b) rfl
  | cons c bs ih =>
    rw [List.length_cons] at hlast
    rw [List.cons_append, storeAll_cons h.cnt_le] at ht
    refine feedAll_cons (feedOne_more h.begun h.cnt_le h.told (by omega) c) (ih (h.more (by omega) c) ?_ ht)
    simp only [cnt_toNat_succ h.cnt_le]
    omega

/-! ### A received frame with the parser idle -/

/-- The six bytes of a fixed frame lie in BUF when they are judged (42_frame_parser.md R152, R154). -/
theorem feedAll_fixedFrame {s t : State} (h : s.cnt = 0) (c lo hi cs e : Byte)
    (ht : t = { s with buf := Memory.writeAll s.buf 0 [startFixed, c, lo, hi, cs, e], cnt := 0, tot := 0 }) :
    feedAll [startFixed, c, lo, hi, cs, e] s =
      .ok ((t.conclude (judgeFixed [startFixed, c, lo, hi, cs, e])).1,
        [.none, .none, .none, .none, .none, (t.conclude (judgeFixed [startFixed, c, lo, hi, cs, e])).2]) := by
  have known : LengthKnown { s with buf := Memory.write s.buf 0 startFixed, cnt := 1, tot := 6 } :=
    ⟨by simp, by simp [Memory.read_write, startFixed, startVar], by simp, by simp⟩
  have marker : Memory.read t.buf 0 = startFixed := by
    rw [ht]
    exact Memory.read_writeAll_zero s.buf [startFixed, c, lo, hi, cs, e] 0
  have judged : judgeBuffer t.buf = judgeFixed [startFixed, c, lo, hi, cs, e] := by
    rw [judgeBuffer_fixed marker, ht]
    exact congrArg judgeFixed (Memory.slice_writeAll s.buf 0 [startFixed, c, lo, hi, cs, e])
  rw [← judged]
  exact feedAll_cons (feedOne_openFixed h) (feedAll_completesFrame [c, lo, hi, cs] e known rfl ht)

/-- The head of a variable frame that is not complete with it gives TOT, and its bytes are stored and counted. -/
theorem feedAll_varHead {s : State} (h : s.cnt = 0) (l : Byte) {body : List Byte} (hl : body.length < l.toNat + 4) :
    feedAll (startVar :: l :: body) s = .ok ({ s with
      buf := Memory.writeAll s.buf 0 (startVar :: l :: body)
      cnt := 2 + BitVec.ofNat 9 body.length
      tot := l.setWidth 9 + 6 }, .none :: .none :: List.replicate body.length .none) := by
  have htot : (l.setWidth 9 + 6).toNat = l.toNat + 6 := by bv_omega
  have marker : Memory.read (Memory.write s.buf 0 startVar) 0 = startVar := by rw [Memory.read_write, if_pos rfl]
  have known : LengthKnown { s with
      buf := Memory.write (Memory.write s.buf 0 startVar) 1 l, cnt := 2, tot := l.setWidth 9 + 6 } :=
    ⟨by simp, by simp, by simp only [htot]; simp, by simp only [htot]; omega⟩
  refine feedAll_cons (feedOne_openVar h) (feedAll_cons (feedOne_length marker rfl l) (feedAll_stores body known ?_))
  show 2 + body.length < (l.setWidth 9 + 6).toNat
  omega

/-- CompleteFixed of a fixed frame laid out around any checksum byte: only the checksum can be wrong. -/
theorem judgeFixed_fixedFrameBytes (x : FixFields) (cs : Byte) :
    judgeFixed (fixedFrameBytes x cs) =
      if cs = sum8 [packCtrl x.ctrl, lo8 x.addr, hi8 x.addr] then .ok (.fixFrame x)
      else .error ⟨.checksumMismatch, 4, cs, sum8 [packCtrl x.ctrl, lo8 x.addr, hi8 x.addr]⟩ := by
  have value : fixedValue (fixedFrameBytes x cs) = x := by
    simp [fixedValue, fixedFrameBytes, byteAt]
  rcases judgeFixed_cases (fixedFrameBytes x cs) with ⟨hne, e⟩ | ⟨-, hend, -⟩ | ⟨heq, -, e⟩
  · exact e.trans (if_neg hne).symm
  · exact absurd rfl hend
  · rw [value] at e
    exact e.trans (if_pos heq).symm

theorem receive_of_feedAll {bs : List Byte} {s t : State} {rs : List Result} (h : feedAll bs s = .ok (t, rs)) :
    receive bs s = .next (t.respond (.results rs)) := by
  rw [receive, h]

/-- A received fixed frame is judged at its sixth byte, and the parser is idle again. -/
theorem exec_wireFixedFrame_idle (x : FixFields) (cs : Byte) {s t : State} (h : s.cnt = 0)
    (ht : t = { s with buf := Memory.writeAll s.buf 0 (fixedFrameBytes x cs), cnt := 0, tot := 0 }) :
    exec (.wireFixedFrame x cs) s = .next
      (if cs = sum8 [packCtrl x.ctrl, lo8 x.addr, hi8 x.addr] then
        t.respond (.results [.none, .none, .none, .none, .none, .value (.fixFrame x)])
      else
        (t.errorEntry ⟨.checksumMismatch, 4, cs, sum8 [packCtrl x.ctrl, lo8 x.addr, hi8 x.addr]⟩).respond
          (.results [.none, .none, .none, .none, .none, .error .checksumMismatch])) := by
  have judged : judgeFixed [startFixed, packCtrl x.ctrl, lo8 x.addr, hi8 x.addr, cs, endByte] = _ :=
    judgeFixed_fixedFrameBytes x cs
  refine (receive_of_feedAll (feedAll_fixedFrame h _ _ _ cs endByte ht)).trans ?_
  rw [judged]
  split <;> rfl

/-! ### A received frame in any state -/

/-- A received chunk does what FEEDs of its bytes in order do (20_memory.md R50). -/
theorem fedInOrder_of_receive {i : Instr} {bs : List Byte} {s : State} (hi : exec i s = receive bs s) :
    FedInOrder i bs s := by
  obtain ⟨runs, faults⟩ := runOps_feeds bs s
  refine ⟨fun t responses h => ?_, fun f h => ?_, fun h => ?_⟩
  · cases hf : feedAll bs s with
    | error f => cases (faults f hf).symm.trans h
    | ok p =>
      obtain ⟨u, rs⟩ := p
      obtain ⟨x, hx⟩ := runs u rs hf
      cases hx.symm.trans h
      exact ⟨rs, rfl, by rw [hi, receive_of_feedAll hf]; rfl⟩
  · cases hf : feedAll bs s with
    | error g =>
      cases (faults g hf).symm.trans h
      rw [hi, receive, hf]
    | ok p =>
      obtain ⟨u, rs⟩ := p
      obtain ⟨x, hx⟩ := runs u rs hf
      cases hx.symm.trans h
  · obtain ⟨t, rs, ht, -⟩ := feedAll_completes ParserInv (fun b _ hu => feedOne_parserInv hu b) bs h
    obtain ⟨x, hx⟩ := runs t rs ht
    exact ⟨_, _, hx⟩

end Sys2Proof.Machine
end

section
/-! PROOFS. The obligations about PRS.BUF (20_memory.md), each from the lemmas above. -/

namespace Sys2Proof.Machine

/-- Settles O51: the bytes of an idle parser's frame lie in BUF from index 0 on, and in any state a received frame is a
chunk of FEEDs. -/
theorem wireFramesFeedTheParser : Obligations.WireFramesFeedTheParser := by
  refine ⟨fun x cs s h => ?_, fun l c addr tid vsq cot pm ra s h hl => ?_, fun x cs s => ?_,
    fun l c addr tid vsq cot pm ra s => ?_⟩
  · exact ⟨_, _, _, _, _, isCtrlByte_packCtrl _, isU16_lo8_hi8 _, isSum_sum8 _, Memory.read_writeAll_zero _ _,
      exec_wireFixedFrame_idle x cs h rfl⟩
  · have htot : BitVec.ofNat 9 (l.toNat + 6) = l.setWidth 9 + 6 := by bv_omega
    rw [htot]
    exact ⟨_, _, _, _, _, _, _, isCtrlByte_packCtrl _, isU16_lo8_hi8 _, isCauseByte_packCause _, isU16_lo8_hi8 _,
      Memory.read_writeAll_zero _ _, receive_of_feedAll (feedAll_varHead h l (by simp; omega))⟩
  · exact ⟨_, _, _, isCtrlByte_packCtrl _, isU16_lo8_hi8 _, fedInOrder_of_receive rfl⟩
  · exact ⟨_, _, _, _, _, _, isCtrlByte_packCtrl _, isU16_lo8_hi8 _, isCauseByte_packCause _, isU16_lo8_hi8 _,
      fedInOrder_of_receive rfl⟩

/-- Settles O56: the invariant keeps CNT inside BUF. -/
theorem everyItemCompletes : Obligations.EveryItemCompletes :=
  fun i _ hs => exec_completes hs.parser i

/-- Settles O22, for any index that PRS.BUF does not have. -/
theorem feedBeyondTheBufferFaults : Obligations.FeedBeyondTheBufferFaults := by
  intro b s h
  rw [exec, execFeed, feedOne_outside h]

end Sys2Proof.Machine
end

section
/-! PROOFS. What each reader of the port accepts: exactly the bytes of the writer beside it. -/

namespace Sys2Proof

open Machine

theorem bind_eq_ok {ε α β : Type} {e : Except ε α} {f : α → Except ε β} {b : β} :
    (e >>= f) = .ok b ↔ ∃ a, e = .ok a ∧ f a = .ok b := by
  cases e <;> simp

/-! ### Numbers -/

/-- Bits that hold no more than a narrower type's range lose nothing in it. -/
theorem setWidth_setWidth_of_lt {v w : Nat} {b : BitVec v} (h : b.toNat < 2 ^ w) : (b.setWidth w).setWidth v = b := by
  apply BitVec.eq_of_toNat_eq
  rw [BitVec.toNat_setWidth, BitVec.toNat_setWidth, Nat.mod_eq_of_lt h, Nat.mod_eq_of_lt b.isLt]

theorem takeNum8_eq_ok {w : Nat} (hw : w ≤ 8) {bs r : List Byte} {v : BitVec w} :
    takeNum8 w bs = .ok (v, r) ↔ bs = putNum8 v ++ r := by
  refine ⟨fun h => ?_, ?_⟩
  · match bs, h with
    | b :: bs, h =>
      rw [takeNum8] at h
      split_ifs at h with hb
      cases h
      rw [putNum8, setWidth_setWidth_of_lt hb]
      rfl
  · rintro rfl
    exact takeNum8_putNum8 hw v r

theorem takeByte_eq_ok {bs r : List Byte} {b : Byte} : takeNum8 8 bs = .ok (b, r) ↔ bs = b :: r := by
  rw [takeNum8_eq_ok (Nat.le_refl 8), putNum8, BitVec.setWidth_eq, List.singleton_append]

theorem takeNum16_eq_ok {w : Nat} (hw : w ≤ 16) {bs r : List Byte} {v : BitVec w} :
    takeNum16 w bs = .ok (v, r) ↔ bs = putNum16 v ++ r := by
  refine ⟨fun h => ?_, ?_⟩
  · match bs, h with
    | lo :: hi :: bs, h =>
      rw [takeNum16] at h
      split_ifs at h with hb
      cases h
      rw [putNum16, setWidth_setWidth_of_lt hb, lo8_u16le, hi8_u16le]
      rfl
  · rintro rfl
    exact takeNum16_putNum16 hw v r

/-! ### Byte sequences -/

theorem takeBytes_eq_ok {n : Nat} {bs s r : List Byte} :
    takeBytes n bs = .ok (s, r) ↔ s.length = n ∧ bs = s ++ r := by
  refine ⟨fun h => ?_, ?_⟩
  · induction n generalizing bs s with
    | zero =>
      cases h
      exact ⟨rfl, rfl⟩
    | succ n ih =>
      cases bs with
      | nil => cases h
      | cons b bs =>
        obtain ⟨⟨s', r'⟩, hs, hr⟩ := bind_eq_ok.mp h
        cases hr
        obtain ⟨rfl, rfl⟩ := ih hs
        exact ⟨rfl, rfl⟩
  · rintro ⟨rfl, rfl⟩
    exact takeBytes_append s r

/-- A two-byte length is at most 65535, so what is read fits its operand type. -/
theorem takeSeq_eq_ok {bs s r : List Byte} : takeSeq bs = .ok (s, r) ↔ seqFits s = true ∧ bs = putSeq s ++ r := by
  refine ⟨fun h => ?_, ?_⟩
  · simp only [takeSeq, bind_eq_ok, Prod.exists, takeNum16_eq_ok (Nat.le_refl 16), takeBytes_eq_ok] at h
    obtain ⟨n, _, rfl, hlen, rfl⟩ := h
    have hn : BitVec.ofNat 16 s.length = n := by rw [hlen, BitVec.ofNat_toNat, BitVec.setWidth_eq]
    refine ⟨?_, by rw [putSeq, hn, List.append_assoc]⟩
    rw [seqFits, decide_eq_true_eq, hlen]
    exact Nat.le_of_lt_succ n.isLt
  · rintro ⟨hs, rfl⟩
    exact takeSeq_putSeq hs r

theorem takeBytes5_eq_ok {bs r : List Byte} {t : Bytes5} : takeBytes5 bs = .ok (t, r) ↔ bs = bytes5List t ++ r := by
  refine ⟨fun h => ?_, ?_⟩
  · match bs, h with
    | _ :: _ :: _ :: _ :: _ :: _, h =>
      cases h
      rfl
  · rintro rfl
    exact takeBytes5_bytes5List t r

theorem takeBytes7_eq_ok {bs r : List Byte} {t : Bytes7} : takeBytes7 bs = .ok (t, r) ↔ bs = bytes7List t ++ r := by
  refine ⟨fun h => ?_, ?_⟩
  · match bs, h with
    | b0 :: b1 :: bs, h =>
      simp only [takeBytes7, bind_eq_ok, Prod.exists, takeBytes5_eq_ok] at h
      obtain ⟨rest, _, rfl, h⟩ := h
      cases h
      rfl
  · rintro rfl
    exact takeBytes7_bytes7List t r

/-! ### Groups of operands: the reads one after another -/

theorem takeCtrl_eq_ok {bs r : List Byte} {c : Ctrl} : takeCtrl bs = .ok (c, r) ↔ bs = putCtrl c ++ r := by
  refine ⟨fun h => ?_, ?_⟩
  · simp only [takeCtrl, bind_eq_ok, Prod.exists, takeNum8_eq_ok, Nat.reduceLeDiff] at h
    obtain ⟨res, _, rfl, prm, _, rfl, fcb, _, rfl, fcv, _, rfl, fc, _, rfl, h⟩ := h
    cases h
    rfl
  · rintro rfl
    exact takeCtrl_putCtrl c r

theorem takeCause_eq_ok {bs r : List Byte} {c : Cause} : takeCause bs = .ok (c, r) ↔ bs = putCause c ++ r := by
  refine ⟨fun h => ?_, ?_⟩
  · simp only [takeCause, bind_eq_ok, Prod.exists, takeNum8_eq_ok, Nat.reduceLeDiff] at h
    obtain ⟨t, _, rfl, pn, _, rfl, cause, _, rfl, h⟩ := h
    cases h
    rfl
  · rintro rfl
    exact takeCause_putCause c r

theorem takeTime_eq_ok {bs r : List Byte} {f : TimeFields} : takeTime bs = .ok (f, r) ↔ bs = putTime f ++ r := by
  refine ⟨fun h => ?_, ?_⟩
  · simp only [takeTime, bind_eq_ok, Prod.exists, takeNum8_eq_ok, Nat.reduceLeDiff] at h
    obtain ⟨minute, _, rfl, tis, _, rfl, iv, _, rfl, hour, _, rfl, res1, _, rfl, su, _, rfl, dom, _, rfl, dow, _, rfl,
      month, _, rfl, eti, _, rfl, pti, _, rfl, year, _, rfl, res2, _, rfl, h⟩ := h
    cases h
    rfl
  · rintro rfl
    exact takeTime_putTime f r

theorem takeVarFields_eq_ok {bs r : List Byte} {x : VarFields} :
    takeVarFields bs = .ok (x, r) ↔ seqFits x.data = true ∧ bs = putVarFields x ++ r := by
  refine ⟨fun h => ?_, ?_⟩
  · simp only [takeVarFields, bind_eq_ok, Prod.exists, takeCtrl_eq_ok, takeNum16_eq_ok, takeNum8_eq_ok, takeCause_eq_ok,
      takeSeq_eq_ok, Nat.reduceLeDiff] at h
    obtain ⟨ctrl, _, rfl, addr, _, rfl, tid, _, rfl, vsq, _, rfl, cot, _, rfl, pm, _, rfl, ra, _, rfl, data, _,
      ⟨hdata, rfl⟩, h⟩ := h
    cases h
    exact ⟨hdata, rfl⟩
  · rintro ⟨hx, rfl⟩
    exact takeVarFields_putVarFields hx r

theorem takeUserFields_eq_ok {bs r : List Byte} {x : UserFields} :
    takeUserFields bs = .ok (x, r) ↔ seqFits x.data = true ∧ bs = putUserFields x ++ r := by
  refine ⟨fun h => ?_, ?_⟩
  · simp only [takeUserFields, bind_eq_ok, Prod.exists, takeNum8_eq_ok, takeCause_eq_ok, takeSeq_eq_ok,
      Nat.reduceLeDiff] at h
    obtain ⟨tid, _, rfl, vsq, _, rfl, cot, _, rfl, ra, _, rfl, data, _, ⟨hdata, rfl⟩, h⟩ := h
    cases h
    exact ⟨hdata, rfl⟩
  · rintro ⟨hx, rfl⟩
    exact takeUserFields_putUserFields hx r

/-! ### Wire patterns: the constant bytes are checked, so none is lost -/

theorem takeWireFixed_eq_ok {bs r : List Byte} {x : FixFields × Byte} :
    takeWireFixed bs = .ok (x, r) ↔ bs = fixedFrameBytes x.1 x.2 ++ r := by
  refine ⟨fun h => ?_, ?_⟩
  · match bs, h with
    | m :: c :: lo :: hi :: cs :: e :: bs, h =>
      rw [takeWireFixed] at h
      split_ifs at h with hm
      obtain ⟨rfl, rfl⟩ := hm
      cases h
      simp [fixedFrameBytes]
  · rintro rfl
    exact takeWireFixed_fixedFrameBytes x.1 x.2 r

end Sys2Proof
end

section
/-! PROOFS. Decoder and encoder, item by item: what was written is read, and what is read was written. -/

namespace Sys2Proof

open Machine

/-! ### What was written is read -/

/-- An item with one operand is read when its operand is. -/
theorem read_eq_ok {α : Type} {take : Reader α} {bs r : List Byte} {x : α} (mk : α → Instr) (h : take bs = .ok (x, r)) :
    (do let (y, r) ← take bs; .ok (mk y, r)) = (.ok (mk x, r) : Except DecodeError (Instr × List Byte)) := by
  rw [h, bind_ok]

theorem decodeCommand_fixbld (x : FixFields) (r : List Byte) :
    decodeCommand 0x08 (operandBytes (.fixbld x) ++ r) = .ok (.fixbld x, r) := by
  simp only [decodeCommand, operandBytes, List.append_assoc, takeCtrl_putCtrl, takeNum16_putNum16 (Nat.le_refl 16), bind_ok]

theorem decodeCommand_t7enc (ms : BitVec 10) (sec : BitVec 6) (f : TimeFields) (r : List Byte) :
    decodeCommand 0x12 (operandBytes (.t7enc ms sec f) ++ r) = .ok (.t7enc ms sec f, r) := by
  simp only [decodeCommand, operandBytes, List.append_assoc, takeNum16_putNum16 (by decide : 10 ≤ 16),
    takeNum8_putNum8 (by decide : 6 ≤ 8), takeTime_putTime, bind_ok]

theorem decode_encode {i : Instr} (h : i.WellFormed) (r : List Byte) : decode (encode i ++ r) = .ok (i, r) := by
  cases i with
  | abort | errclr | fcbnext | linkstat | linkrst | class2 | reset
  | reserved00 | reserved06 | reserved07 | reserved0A | reserved0B | reserved0F | reserved1D | reserved1E => rfl
  | sum8 s => exact (read_eq_ok .sum8 (takeSeq_putSeq h r) :)
  | parse m => exact (read_eq_ok .parse (takeSeq_putSeq h r) :)
  | varbld x => exact (read_eq_ok .varbld (takeVarFields_putVarFields h r) :)
  | userdata x => exact (read_eq_ok .userdata (takeUserFields_putUserFields h r) :)
  | ctrlpk c => exact (read_eq_ok .ctrlpk (takeCtrl_putCtrl c r) :)
  | cotpk c => exact (read_eq_ok .cotpk (takeCause_putCause c r) :)
  | ctrlup c => exact (read_eq_ok .ctrlup (takeNum8_putNum8 (by decide) c r) :)
  | cotup b => exact (read_eq_ok .cotup (takeNum8_putNum8 (by decide) b r) :)
  | feed b => exact (read_eq_ok .feed (takeNum8_putNum8 (by decide) b r) :)
  | rdreg k => exact (read_eq_ok .rdreg (takeNum8_putNum8 (by decide) k r) :)
  | wrder v => exact (read_eq_ok .wrder (takeNum16_putNum16 (by decide) v r) :)
  | wrpm v => exact (read_eq_ok .wrpm (takeNum16_putNum16 (by decide) v r) :)
  | t5enc f => exact (read_eq_ok .t5enc (takeTime_putTime f r) :)
  | t5dec t => exact (read_eq_ok .t5dec (takeBytes5_bytes5List t r) :)
  | t7dec t => exact (read_eq_ok .t7dec (takeBytes7_bytes7List t r) :)
  | fixbld x => exact decodeCommand_fixbld x r
  | t7enc ms sec f => exact decodeCommand_t7enc ms sec f r
  | wireFixedFrame x cs =>
    exact (read_eq_ok (fun x => .wireFixedFrame x.1 x.2) (takeWireFixed_fixedFrameBytes x cs r) :)
  | wireControlByte c =>
    exact (read_eq_ok (fun b => .wireControlByte (unpackCtrl b)) (takeNum8_byte (packCtrl c) r) :).trans (by simp)
  | wireVariableFrameHead l c addr tid vsq cot pm ra => exact decodeWireVar_varHeadBytes l c addr tid vsq cot pm ra r
  | wireCauseByte c =>
    exact (read_eq_ok (fun b => .wireCauseByte (unpackCause b)) (takeNum8_byte (packCause c) r) :).trans (by simp)
  | wireTime5 f =>
    exact (read_eq_ok (fun t => .wireTime5 (unpackTime t)) (takeBytes5_bytes5List (packTime f) r) :).trans (by simp)
  | wireTime7SecLow ms sec f =>
    exact (read_eq_ok (fun t => .wireTime7SecLow (unpackMs .secLow (u16le t.b0 t.b1)) (unpackSec .secLow (u16le t.b0 t.b1))
      (unpackTime t.rest)) (takeBytes7_bytes7List (packTime7 .secLow ms sec f) r) :).trans (by simp)
  | wireTime7MsLow ms sec f =>
    exact (read_eq_ok (fun t => .wireTime7MsLow (unpackMs .msLow (u16le t.b0 t.b1)) (unpackSec .msLow (u16le t.b0 t.b1))
      (unpackTime t.rest)) (takeBytes7_bytes7List (packTime7 .msLow ms sec f) r) :).trans (by simp)

/-! ### What is read was written -/

/-- The bytes `bs` after a first byte `code` are the operands of the well-formed item `i` with that first byte, and then
`r`. -/
structure ReadAs (code : Nat) (bs : List Byte) (i : Instr) (r : List Byte) : Prop where
  wellFormed : i.WellFormed
  firstByte : (opByte i).toNat = code
  operands : bs = operandBytes i ++ r

/-- An item with one operand is read as the operand is. -/
theorem ReadAs.of_read {α : Type} {take : Reader α} (mk : α → Instr) {code : Nat} {bs r : List Byte} {i : Instr}
    (hread : ∀ {x r}, take bs = .ok (x, r) → ReadAs code bs (mk x) r)
    (h : (do let (x, r) ← take bs; .ok (mk x, r)) = .ok (i, r)) : ReadAs code bs i r := by
  obtain ⟨⟨x, _⟩, hx, h⟩ := bind_eq_ok.mp h
  cases h
  exact hread hx

theorem decodeCommand_readAs {op : Nat} {bs r : List Byte} {i : Instr} (h : decodeCommand op bs = .ok (i, r)) :
    ReadAs op bs i r := by
  match op with
  | 0x00 | 0x06 | 0x07 | 0x0A | 0x0B | 0x0D | 0x0F | 0x17 | 0x18 | 0x19 | 0x1A | 0x1B | 0x1D | 0x1E | 0x1F =>
    cases h
    exact ⟨rfl, rfl, rfl⟩
  | 0x01 => exact .of_read .sum8 (fun hs => let ⟨hfits, hbs⟩ := takeSeq_eq_ok.mp hs; ⟨hfits, rfl, hbs⟩) h
  | 0x02 => exact .of_read .ctrlpk (fun hc => ⟨rfl, rfl, takeCtrl_eq_ok.mp hc⟩) h
  | 0x03 => exact .of_read .ctrlup (fun hc => ⟨rfl, rfl, (takeNum8_eq_ok (by decide)).mp hc⟩) h
  | 0x04 => exact .of_read .cotpk (fun hc => ⟨rfl, rfl, takeCause_eq_ok.mp hc⟩) h
  | 0x05 => exact .of_read .cotup (fun hb => ⟨rfl, rfl, (takeNum8_eq_ok (by decide)).mp hb⟩) h
  | 0x08 =>
    simp only [decodeCommand, bind_eq_ok, Prod.exists, takeCtrl_eq_ok, takeNum16_eq_ok, Nat.reduceLeDiff] at h
    obtain ⟨ctrl, _, rfl, addr, _, rfl, h⟩ := h
    cases h
    exact ⟨rfl, rfl, rfl⟩
  | 0x09 => exact .of_read .varbld (fun hx => let ⟨hfits, hbs⟩ := takeVarFields_eq_ok.mp hx; ⟨hfits, rfl, hbs⟩) h
  | 0x0C => exact .of_read .feed (fun hb => ⟨rfl, rfl, (takeNum8_eq_ok (by decide)).mp hb⟩) h
  | 0x0E => exact .of_read .parse (fun hm => let ⟨hfits, hbs⟩ := takeSeq_eq_ok.mp hm; ⟨hfits, rfl, hbs⟩) h
  | 0x10 => exact .of_read .t5enc (fun hf => ⟨rfl, rfl, takeTime_eq_ok.mp hf⟩) h
  | 0x11 => exact .of_read .t5dec (fun ht => ⟨rfl, rfl, takeBytes5_eq_ok.mp ht⟩) h
  | 0x12 =>
    simp only [decodeCommand, bind_eq_ok, Prod.exists, takeNum16_eq_ok, takeNum8_eq_ok, takeTime_eq_ok,
      Nat.reduceLeDiff] at h
    obtain ⟨ms, _, rfl, sec, _, rfl, f, _, rfl, h⟩ := h
    cases h
    exact ⟨rfl, rfl, rfl⟩
  | 0x13 => exact .of_read .t7dec (fun ht => ⟨rfl, rfl, takeBytes7_eq_ok.mp ht⟩) h
  | 0x14 => exact .of_read .wrder (fun hv => ⟨rfl, rfl, (takeNum16_eq_ok (by decide)).mp hv⟩) h
  | 0x15 => exact .of_read .wrpm (fun hv => ⟨rfl, rfl, (takeNum16_eq_ok (by decide)).mp hv⟩) h
  | 0x16 => exact .of_read .rdreg (fun hk => ⟨rfl, rfl, (takeNum8_eq_ok (by decide)).mp hk⟩) h
  | 0x1C => exact .of_read .userdata (fun hx => let ⟨hfits, hbs⟩ := takeUserFields_eq_ok.mp hx; ⟨hfits, rfl, hbs⟩) h
  | n + 0x20 => cases h

theorem packTime7_unpack (o : T7Order) (t : Bytes7) :
    packTime7 o (unpackMs o (u16le t.b0 t.b1)) (unpackSec o (u16le t.b0 t.b1)) (unpackTime t.rest) = t := by
  simp [packTime7]

theorem decodeWireVar_readAs {bs r : List Byte} {i : Instr} (h : decodeWireVar bs = .ok (i, r)) : ReadAs 0x22 bs i r := by
  match bs, h with
  | m :: l :: l' :: m' :: c :: alo :: ahi :: tid :: vsq :: cot :: plo :: phi :: ra :: bs, h =>
    rw [decodeWireVar] at h
    split_ifs at h with hm
    obtain ⟨rfl, rfl, rfl⟩ := hm
    cases h
    exact ⟨rfl, rfl, by simp [operandBytes, varHeadBytes]⟩

/-- A wire item's operands are the fields of the bytes read; packed again they are those bytes. -/
theorem decodeWire_readAs {format : Nat} {bs r : List Byte} {i : Instr} (h : decodeWire format bs = .ok (i, r)) :
    ReadAs (format + 0x20) bs i r := by
  match format with
  | 0 =>
    refine .of_read (fun x : FixFields × Byte => .wireFixedFrame x.1 x.2) (fun hx => ⟨rfl, rfl, ?_⟩) h
    exact takeWireFixed_eq_ok.mp hx
  | 1 =>
    refine .of_read (fun c => .wireControlByte (unpackCtrl c)) (fun hc => ⟨rfl, rfl, ?_⟩) h
    rw [operandBytes, packCtrl_unpackCtrl]
    exact takeByte_eq_ok.mp hc
  | 2 => exact decodeWireVar_readAs h
  | 3 =>
    refine .of_read (fun b => .wireCauseByte (unpackCause b)) (fun hb => ⟨rfl, rfl, ?_⟩) h
    rw [operandBytes, packCause_unpackCause]
    exact takeByte_eq_ok.mp hb
  | 4 =>
    refine .of_read (fun t => .wireTime5 (unpackTime t)) (fun ht => ⟨rfl, rfl, ?_⟩) h
    rw [operandBytes, packTime_unpackTime]
    exact takeBytes5_eq_ok.mp ht
  | 5 | 6 =>
    obtain ⟨⟨t, _⟩, ht, h⟩ := bind_eq_ok.mp h
    cases h
    refine ⟨rfl, rfl, ?_⟩
    rw [operandBytes, packTime7_unpack]
    exact takeBytes7_eq_ok.mp ht
  | n + 7 => cases h

/-- The first byte chooses between a command and a wire item. -/
theorem decode_cons_readAs {b : Byte} {bs r : List Byte} {i : Instr} (h : decode (b :: bs) = .ok (i, r)) :
    ReadAs b.toNat bs i r := by
  rw [decode] at h
  split_ifs at h with hcommand
  · exact decodeCommand_readAs h
  · have hwire := decodeWire_readAs h
    rwa [Nat.sub_add_cancel (Nat.le_of_not_lt hcommand)] at hwire

theorem ReadAs.encode_append {b : Byte} {bs r : List Byte} {i : Instr} (h : ReadAs b.toNat bs i r) :
    encode i ++ r = b :: bs := by
  obtain ⟨-, hfirst, rfl⟩ := h
  rw [encode, BitVec.eq_of_toNat_eq hfirst, List.cons_append]

end Sys2Proof
end

section
/-! PROOFS. A 7-byte time under either order of seconds and milliseconds. -/

namespace Sys2Proof.Machine

/-- A 7-byte time laid out in the order `o'` and decoded in the order `o`: the 16 bits of seconds and milliseconds are the
same, and so are the fields where the orders agree. -/
theorem decodeTime7_packTime7 (o o' : T7Order) (ms : BitVec 10) (sec : BitVec 6) (f : TimeFields) :
    ∃ ms' sec', (o = o' → ms' = ms ∧ sec' = sec) ∧ packSecMs o ms' sec' = packSecMs o' ms sec ∧
      decodeTime7 o (packTime7 o' ms sec f) = .time7 ms' sec' (substituteZero f) (yearFull f) := by
  refine ⟨unpackMs o (packSecMs o' ms sec), unpackSec o (packSecMs o' ms sec), ?_, packSecMs_unpack o _, ?_⟩
  · rintro rfl
    exact ⟨unpackMs_packSecMs o ms sec, unpackSec_packSecMs o ms sec⟩
  · rw [decodeTime7, u16le_packTime7, packTime7_rest, unpackTime_packTime]

end Sys2Proof.Machine
end

section
/-! PROOFS. The obligations about the port, the reserved codes and the wire fields (30_encoding.md), each from the lemmas
above. -/

namespace Sys2Proof.Machine

/-- Settles O1: item by item, each operand's reader gives back what its writer put. -/
theorem decodeReadsWhatEncodeWrites : Obligations.DecodeReadsWhatEncodeWrites :=
  fun _ rest h => decode_encode h rest

/-- Settles O2: each operand's reader accepts only what its writer puts. -/
theorem decodedItemsEncodeBack : Obligations.DecodedItemsEncodeBack := by
  intro bs rest i h
  cases bs with
  | nil => cases h
  | cons b bs =>
    have hread := decode_cons_readAs h
    exact ⟨hread.wellFormed, hread.encode_append⟩

/-- Settles O52: unpacking gives the packed fields back; the two orders agree on the 16 bits. -/
theorem wireFieldsAreDecoded : Obligations.WireFieldsAreDecoded := by
  have given (s : State) {v w : Value} (h : v = w) :
      (.next (s.giveValue v) : Host.Outcome State Fault Refusal) = .next { s with response := .result (.value w) } := by
    rw [h]
    rfl
  refine ⟨fun c s => ?_, fun c s => ?_, fun f s => ?_, fun ms sec f s => ?_, fun ms sec f s => ?_⟩
  · exact given s (congrArg Value.ctrl (unpackCtrl_packCtrl c))
  · exact given s (congrArg Value.cause (unpackCause_packCause c))
  · refine ⟨yearFull f, yearFull_toNat f, given s ?_⟩
    rw [decodeTime5, unpackTime_packTime]
    rfl
  · obtain ⟨ms', sec', hsame, hbits, hvalue⟩ := decodeTime7_packTime7 s.cfg.t7Order .secLow ms sec f
    refine ⟨ms', sec', yearFull f, yearFull_toNat f, hsame, fun ho => ?_, given s hvalue⟩
    simpa only [packSecMs_toNat, ho] using congrArg BitVec.toNat hbits
  · obtain ⟨ms', sec', hsame, hbits, hvalue⟩ := decodeTime7_packTime7 s.cfg.t7Order .msLow ms sec f
    refine ⟨ms', sec', yearFull f, yearFull_toNat f, hsame, fun ho => ?_, given s hvalue⟩
    simpa only [packSecMs_toNat, ho] using congrArg BitVec.toNat hbits

/-- Settles O3, by running the decoder on the bytes. -/
theorem writtenOutItemsDecode : Obligations.WrittenOutItemsDecode :=
  ⟨rfl, rfl, rfl, rfl, rfl, rfl, rfl⟩

/-- Settles O6, by what taking an item off the port can answer. -/
theorem stepRefusesWhatHoldsNoItem : Obligations.StepRefusesWhatHoldsNoItem := by
  intro s e hne h
  rcases fetch_cases s with ⟨hp, -⟩ | ⟨i, rest, hd, -⟩ | ⟨e', -, hd, hf⟩
  · exact absurd hp hne
  · cases hd.symm.trans h
  · cases hd.symm.trans h
    rw [step, hf]

/-- Settles O50: every reserved code's item is refused by `State.refuseCode`, which writes the response alone. -/
theorem reservedCodesChangeNothing : Obligations.ReservedCodesChangeNothing :=
  fun _ => ⟨rfl, rfl, rfl, rfl, rfl, rfl, rfl, rfl, rfl, rfl, rfl, rfl, rfl, rfl, rfl, rfl⟩

end Sys2Proof.Machine
end

section
/-! PROOFS. What SUM8 and the packing operations answer, what the checksum sees, and the packed fields as digits of the
byte. -/

namespace Sys2Proof.Machine

/-! ### The answers of the five operations -/

theorem exec_sum8 (b : List Byte) (s : State) :
    exec (.sum8 b) s = .next { s with response := .result (.value (.byte (sum8 b))) } := rfl

theorem exec_ctrlpk (c : Ctrl) (s : State) :
    exec (.ctrlpk c) s = .next { s with response := .result (.value (.byte (packCtrl c))) } := rfl

theorem exec_ctrlup (b : Byte) (s : State) :
    exec (.ctrlup b) s = .next { s with response := .result (.value (.ctrl (unpackCtrl b))) } := rfl

theorem exec_cotpk (c : Cause) (s : State) :
    exec (.cotpk c) s = .next { s with response := .result (.value (.byte (packCause c))) } := rfl

theorem exec_cotup (b : Byte) (s : State) :
    exec (.cotup b) s = .next { s with response := .result (.value (.cause (unpackCause b))) } := rfl

theorem exec_ctrlpk_eq_iff {c : Ctrl} {s : State} {b : Byte} :
    exec (.ctrlpk c) s = .next { s with response := .result (.value (.byte b)) } ↔ packCtrl c = b := by
  simp [exec_ctrlpk]

/-! ### What the checksum sees (40_checksum_and_byte_fields.md R111, R112) -/

theorem sum8_eq_of_perm {a b : List Byte} (h : a.Perm b) : sum8 a = sum8 b := by
  rw [sum8_eq_ofNat, sum8_eq_ofNat, (h.map BitVec.toNat).sum_nat]

/-- The bytes around one place add the same to both checksums, so they cancel. -/
theorem sum8_replace_inj {a b : List Byte} {x y : Byte} : sum8 (a ++ x :: b) = sum8 (a ++ y :: b) ↔ x = y := by
  simp only [sum8_append, sum8_cons, add_right_inj, add_left_inj]

/-- The 1 added and the 1 subtracted meet in the sum. -/
theorem sum8_shift_one (a b c : List Byte) (x y : Byte) :
    sum8 (a ++ (x + 1) :: b ++ (y - 1) :: c) = sum8 (a ++ x :: b ++ y :: c) := by
  simp only [sum8_append, sum8_cons]
  ring

/-! ### The fields as digits of the byte -/

/-- Each field is below the weight of the field to its left, so the byte has these digits and no others. -/
theorem IsCtrlByte.fields {b : Byte} {c : Ctrl} (h : IsCtrlByte b c) :
    c.res.toNat = b.toNat / 128 ∧ c.prm.toNat = b.toNat / 64 % 2 ∧ c.fcb.toNat = b.toNat / 32 % 2 ∧
      c.fcv.toNat = b.toNat / 16 % 2 ∧ c.fc.toNat = b.toNat % 16 := by
  have hprm := c.prm.isLt
  have hfcb := c.fcb.isLt
  have hfcv := c.fcv.isLt
  have hfc := c.fc.isLt
  unfold IsCtrlByte at h
  omega

theorem IsCauseByte.fields {b : Byte} {c : Cause} (h : IsCauseByte b c) :
    c.t.toNat = b.toNat / 128 ∧ c.pn.toNat = b.toNat / 64 % 2 ∧ c.cause.toNat = b.toNat % 64 := by
  have hpn := c.pn.isLt
  have hcause := c.cause.isLt
  unfold IsCauseByte at h
  omega

/-- A control byte is packed from its own fields and from no others. -/
theorem packCtrl_eq_iff {c : Ctrl} {b : Byte} : packCtrl c = b ↔ c = unpackCtrl b := by
  constructor
  · rintro rfl
    exact (unpackCtrl_packCtrl c).symm
  · rintro rfl
    exact packCtrl_unpackCtrl b

end Sys2Proof.Machine
end

section
/-! PROOFS. The obligations about the checksum and the byte fields (40_checksum_and_byte_fields.md), each from the lemmas
above. -/

namespace Sys2Proof.Machine

/-- Settles O7: the checksum is the sum of the bytes as numbers, and that sum is kept by a reordering. -/
theorem sum8AddsBytesModulo256 : Obligations.Sum8AddsBytesModulo256 := by
  refine fun b s => ⟨⟨sum8 b, isSum_sum8 b, exec_sum8 b s⟩, fun b' h => ?_, rfl⟩
  rw [exec_sum8, exec_sum8, sum8_eq_of_perm h]

/-- Settles O8: the checksum is a sum, in which the bytes that stand on both sides cancel. -/
theorem checksumSeesOneChangedByte : Obligations.ChecksumSeesOneChangedByte :=
  ⟨sum8_append, fun _ _ _ _ hne => mt sum8_replace_inj.mp hne, sum8_shift_one, fun _ _ => sum8_eq_of_perm⟩

/-- Settles O9: the fields that pack to a byte are those it unpacks to. -/
theorem ctrlpkPacksTheControlByte : Obligations.CtrlpkPacksTheControlByte := by
  refine ⟨fun c s => ⟨⟨packCtrl c, isCtrlByte_packCtrl c, exec_ctrlpk c s⟩, rfl⟩, fun b s => ?_⟩
  simp only [exec_ctrlpk_eq_iff, packCtrl_eq_iff]
  exact existsUnique_eq

/-- Settles O10: the unpacked fields pack to the byte, so they are its digits. -/
theorem ctrlupUnpacksTheControlByte : Obligations.CtrlupUnpacksTheControlByte :=
  fun b s => ⟨⟨unpackCtrl b, exec_ctrlup b s, (isCtrlByte_unpackCtrl b).fields⟩, rfl⟩

/-- Settles O11, by the packed byte as a number. -/
theorem cotpkPacksTheCauseByte : Obligations.CotpkPacksTheCauseByte :=
  fun c s => ⟨⟨packCause c, isCauseByte_packCause c, exec_cotpk c s⟩, rfl⟩

/-- Settles O12: the unpacked fields pack to the byte, so they are its digits. -/
theorem cotupUnpacksTheCauseByte : Obligations.CotupUnpacksTheCauseByte :=
  fun b s => ⟨⟨unpackCause b, exec_cotup b s, (isCauseByte_unpackCause b).fields⟩, rfl⟩

/-- Settles O13: each operation is run on the other's answer, and the packings are inverse to the unpackings. -/
theorem byteFieldsRoundTrip : Obligations.ByteFieldsRoundTrip := by
  refine ⟨fun b s => ⟨unpackCtrl b, exec_ctrlup b s, ?_⟩, fun c s => ⟨packCtrl c, exec_ctrlpk c s, ?_⟩,
    fun b s => ⟨unpackCause b, exec_cotup b s, ?_⟩, fun c s => ⟨packCause c, exec_cotpk c s, ?_⟩⟩
  · rw [exec_ctrlpk, packCtrl_unpackCtrl]
  · rw [exec_ctrlup, unpackCtrl_packCtrl]
  · rw [exec_cotpk, packCause_unpackCause]
  · rw [exec_cotup, unpackCause_packCause]

end Sys2Proof.Machine
end

section
/-! PROOFS. What the two builders answer, how the parser judges the frames they build, and a whole variable frame as one
chunk of FEEDs. -/

namespace Sys2Proof.Machine

/-! ### The answers of the builders -/

theorem exec_fixbld (x : FixFields) (s : State) :
    exec (.fixbld x) s = .next { s with response := .result (.value (.bytes (buildFixed x))) } := rfl

theorem exec_varbld_fits {x : VarFields} (h : x.data.length ≤ 246) (s : State) :
    exec (.varbld x) s = .next { s with response := .result (.value (.bytes (varFrameBytes x))) } :=
  execVarbld_fits h s

/-- BuildOverflow as it stands in the registers and in the answer (41_frame_builder.md R138). -/
theorem errorEntry_overflow (data : List Byte) (s : State) :
    (s.errorEntry (overflow data)).answer (.error .buildOverflow) = { s with
      err := { code := 5, pos := 1, got := BitVec.ofNat 8 (9 + data.length), exp := 0 }
      eBld := 1
      response := .result (.error .buildOverflow) } := rfl

theorem exec_varbld_overflows {x : VarFields} (h : 246 < x.data.length) (s : State) :
    exec (.varbld x) s = .next { s with
      err := { code := 5, pos := 1, got := BitVec.ofNat 8 (9 + x.data.length), exp := 0 }
      eBld := 1
      response := .result (.error .buildOverflow) } :=
  (execVarbld_overflows h s).trans (congrArg _ (errorEntry_overflow x.data s))

theorem exec_userdata_overflows {x : UserFields} (h : 246 < x.data.length) (s : State) :
    exec (.userdata x) s = .next { s with
      err := { code := 5, pos := 1, got := BitVec.ofNat 8 (9 + x.data.length), exp := 0 }
      eBld := 1
      response := .result (.error .buildOverflow) } :=
  (execUserdata_overflows h s).trans (congrArg _ (errorEntry_overflow x.data s))

/-! ### The verdict on a built frame -/

/-- FIXBLD puts the checksum CompleteFixed looks for. -/
theorem judgeFixed_buildFixed (x : FixFields) : judgeFixed (buildFixed x) = .ok (.fixFrame x) :=
  (judgeFixed_fixedFrameBytes x _).trans (if_pos rfl)

/-- The bytes of a variable frame before the summed range. -/
def varOpening (x : VarFields) : List Byte := [startVar, declaredLength x.data, declaredLength x.data, startVar]

/-- The summed range of a variable frame (41_frame_builder.md R133). -/
def varSummed (x : VarFields) : List Byte := varHeader x ++ x.data

theorem varFrameBytes_eq (x : VarFields) :
    varFrameBytes x = varOpening x ++ (varSummed x ++ [sum8 (varSummed x), endByte]) :=
  List.append_assoc ..

theorem varSummed_length (x : VarFields) : (varSummed x).length = 9 + x.data.length := by
  rw [varSummed, List.length_append, varHeader_length]

/-- The bytes from offset 4 on that L counts are the summed range. -/
theorem take_drop_varFrameBytes (x : VarFields) :
    ((varFrameBytes x).drop 4).take (9 + x.data.length) = varSummed x := by
  rw [varFrameBytes_eq]
  exact List.take_left' (varSummed_length x)

/-- A byte after the summed range. -/
theorem byteAt_varFrameBytes_trailer (x : VarFields) (k : Nat) :
    byteAt (varFrameBytes x) (9 + x.data.length + 4 + k) = [sum8 (varSummed x), endByte].getD k 0 := by
  have hlen : (varOpening x ++ varSummed x).length = 9 + x.data.length + 4 := by
    rw [List.length_append, varSummed_length, varOpening, Nat.add_comm]
    rfl
  rw [byteAt, varFrameBytes_eq, ← List.append_assoc, List.getD_append_right _ _ _ _ (by omega), hlen,
    Nat.add_sub_cancel_left]

/-- VarValue reads each operand where VARBLD put it (42_frame_parser.md R160). -/
theorem varValue_varFrameBytes (x : VarFields) : varValue (varFrameBytes x) (9 + x.data.length) = x := by
  have data : ((varFrameBytes x).drop 13).take (9 + x.data.length - hdrOverhead) = x.data := by
    rw [Nat.add_sub_cancel_left]
    exact List.take_left' rfl
  rw [varValue, data]
  simp [varFrameBytes, varHeader, byteAt]

/-- VARBLD puts every byte CompleteVar looks for. -/
theorem judgeVar_varFrameBytes {x : VarFields} (h : x.data.length ≤ 246) :
    judgeVar (varFrameBytes x) = .ok (.varFrame x) := by
  have length : 9 + x.data.length = (byteAt (varFrameBytes x) 1).toNat := (declaredLength_toNat h).symm
  have checksum := byteAt_varFrameBytes_trailer x 0
  have ending := byteAt_varFrameBytes_trailer x 1
  have value := varValue_varFrameBytes x
  rcases judgeVar_cases _ _ _ length (congrArg sum8 (take_drop_varFrameBytes x)).symm with
    ⟨short, -⟩ | ⟨-, hne, -⟩ | ⟨-, -, hne, -⟩ | ⟨-, -, -, hne, -⟩ | ⟨-, -, -, -, hne, -⟩ | ⟨-, -, -, -, -, e⟩
  · omega
  · exact absurd rfl hne
  · exact absurd rfl hne
  · exact absurd checksum hne
  · exact absurd ending hne
  · rw [e, value]

/-! ### A whole variable frame fed to an idle parser -/

/-- After the second byte of a variable frame its length is known. -/
theorem lengthKnown_varHead (s : State) (l : Byte) : LengthKnown { s with
    buf := Memory.write (Memory.write s.buf 0 startVar) 1 l, cnt := 2, tot := l.setWidth 9 + 6 } := by
  have htot : (l.setWidth 9 + 6 : BitVec 9).toNat = l.toNat + 6 := by bv_omega
  have hl := l.isLt
  exact ⟨by simp, by simp, (by omega : 2 < l.toNat + 6).trans_eq htot.symm, htot.trans_le (by omega)⟩

/-- The bytes of a variable frame lie in BUF when they are judged (42_frame_parser.md R152, R155). -/
theorem feedAll_varFrame {s t : State} (h : s.cnt = 0) {l e : Byte} {body f : List Byte}
    (hl : body.length = l.toNat + 3) (hf : f = startVar :: l :: (body ++ [e]))
    (ht : t = { s with buf := Memory.writeAll s.buf 0 f, cnt := 0, tot := 0 }) :
    feedAll f s = .ok ((t.conclude (judgeVar f)).1,
      List.replicate (body.length + 2) .none ++ [(t.conclude (judgeVar f)).2]) := by
  have opened : Memory.read (Memory.write s.buf 0 startVar) 0 = startVar := by rw [Memory.read_write, if_pos rfl]
  have marker : Memory.read t.buf 0 = startVar := by
    rw [ht, hf]
    exact Memory.read_writeAll_zero s.buf _ 0
  have length : Memory.read t.buf 1 = l := by
    rw [ht, hf]
    exact (Memory.read_writeAll_zero s.buf _ 1).trans (if_pos (by simp))
  have flen : l.toNat + 6 = f.length := by simp [hf, hl]
  have judged : judgeBuffer t.buf = judgeVar f := by
    rw [judgeBuffer_var marker, length, flen, ht]
    exact congrArg judgeVar (Memory.slice_writeAll s.buf 0 f)
  have last : 2 + body.length + 1 = (l.setWidth 9 + 6 : BitVec 9).toNat := by bv_omega
  rw [← judged, hf, Nat.add_comm, List.replicate_add]
  exact feedAll_cons (feedOne_openVar h) (feedAll_cons (feedOne_length opened rfl l)
    (feedAll_completesFrame body e (lengthKnown_varHead s l) last (by rw [ht, hf]; rfl)))

/-! ### A built frame fed back -/

/-- FEEDs one after another hand back the results of the chunk. -/
theorem runOps_feeds_of_feedAll {bs : List Byte} {s t : State} {rs : List Result} (h : feedAll bs s = .ok (t, rs)) :
    ∃ u, runOps (bs.map .feed) s = .next (u, rs.map .result) :=
  have ⟨x, hx⟩ := (runOps_feeds bs s).1 t rs h
  ⟨t.respond x, hx⟩

theorem feedAll_buildFixed {s t : State} (h : s.cnt = 0) (x : FixFields)
    (ht : t = { s with buf := Memory.writeAll s.buf 0 (buildFixed x), cnt := 0, tot := 0 }) :
    feedAll (buildFixed x) s = .ok (t, List.replicate 5 .none ++ [.value (.fixFrame x)]) := by
  have fed : feedAll (buildFixed x) s = .ok ((t.conclude (judgeFixed (buildFixed x))).1,
      List.replicate 5 .none ++ [(t.conclude (judgeFixed (buildFixed x))).2]) :=
    feedAll_fixedFrame h _ _ _ _ endByte ht
  rwa [judgeFixed_buildFixed] at fed

theorem feedAll_varFrameBytes {s t : State} (h : s.cnt = 0) {x : VarFields} (hx : x.data.length ≤ 246)
    (ht : t = { s with buf := Memory.writeAll s.buf 0 (varFrameBytes x), cnt := 0, tot := 0 }) :
    feedAll (varFrameBytes x) s =
      .ok (t, List.replicate (x.data.length + 14) .none ++ [.value (.varFrame x)]) := by
  have fits := declaredLength_toNat hx
  have hbody : ([declaredLength x.data, startVar] ++ varSummed x ++ [sum8 (varSummed x)]).length =
      x.data.length + 12 := by
    simp only [List.length_append, varSummed_length, List.length_cons, List.length_nil]
    omega
  have layout : varFrameBytes x = startVar :: declaredLength x.data ::
      ([declaredLength x.data, startVar] ++ varSummed x ++ [sum8 (varSummed x)] ++ [endByte]) := by
    simp [varFrameBytes_eq, varOpening]
  have fed := feedAll_varFrame h (by omega) layout ht
  rwa [judgeVar_varFrameBytes hx, hbody] at fed

end Sys2Proof.Machine
end

section
/-! PROOFS. The obligations about the frame builder (41_frame_builder.md), each from the lemmas above. -/

namespace Sys2Proof.Machine

/-- Settles O29: a built frame is one chunk of FEEDs, and the verdict on it is the frame value of its operands. -/
theorem builtFramesFedBackAreReturned : Obligations.BuiltFramesFedBackAreReturned := by
  refine ⟨fun x s h => ?_, fun x s h hx => ?_⟩
  · obtain ⟨t, run⟩ := runOps_feeds_of_feedAll (feedAll_buildFixed h x rfl)
    exact ⟨buildFixed x, t, exec_fixbld x s, run⟩
  · obtain ⟨t, run⟩ := runOps_feeds_of_feedAll (feedAll_varFrameBytes h hx rfl)
    refine ⟨varFrameBytes x, t, exec_varbld_fits hx s, run.trans ?_⟩
    rw [List.map_append, List.map_replicate]
    rfl

/-- Settles O15: the bytes VARBLD lays out are the packed fields around the data. -/
theorem varbldBuildsTheVariableFrame : Obligations.VarbldBuildsTheVariableFrame := by
  refine fun x s => ⟨fun h => ?_, fun h => exec_varbld_overflows h s⟩
  exact ⟨_, _, _, _, _, _, _, _, declaredLength_toNat h, isCtrlByte_packCtrl _, isU16_lo8_hi8 _, isCauseByte_packCause _,
    isU16_lo8_hi8 _, isSum_sum8 _, exec_varbld_fits h s⟩

/-- Settles O16: the verdict on a built frame gives its operands back, so frames that are equal have equal operands. -/
theorem buildersAreInjective : Obligations.BuildersAreInjective := by
  refine ⟨fun x y s h => ?_, fun x y s hx hy h => ?_⟩
  · have frames : buildFixed x = buildFixed y := by simpa [exec_fixbld] using h
    have verdicts := congrArg judgeFixed frames
    simpa [judgeFixed_buildFixed] using verdicts
  · have frames : varFrameBytes x = varFrameBytes y := by simpa [exec_varbld_fits hx, exec_varbld_fits hy] using h
    have verdicts := congrArg judgeVar frames
    simpa [judgeVar_varFrameBytes hx, judgeVar_varFrameBytes hy] using verdicts

/-- Settles O14: the bytes FIXBLD lays out are the packed fields. -/
theorem fixbldBuildsTheFixedFrame : Obligations.FixbldBuildsTheFixedFrame :=
  fun x s => ⟨⟨_, _, _, _, isCtrlByte_packCtrl _, isU16_lo8_hi8 _, isSum_sum8 _, exec_fixbld x s⟩, rfl⟩

/-- Settles O17: both operations raise the one error before anything else is touched. -/
theorem tooMuchDataOverflows : Obligations.TooMuchDataOverflows :=
  ⟨fun _ s h => exec_varbld_overflows h s, fun _ s h => exec_userdata_overflows h s⟩

end Sys2Proof.Machine
end

section
/-! PROOFS. How FEED and PARSE end, the layout of a variable frame around its summed bytes, and what the judgements of a
frame leave in the registers. -/

namespace Sys2Proof.Machine

/-! ### The answers of FEED and PARSE -/

theorem exec_feed {b : Byte} {s : State} {p : State × Result} (h : feedOne b s = .ok p) :
    exec (.feed b) s = .next (finish p) := by
  rw [exec, execFeed, h]

theorem exec_parse (f : List Byte) (s : State) : exec (.parse f) s = .next (finish (s.conclude (judgeSeq f))) := rfl

theorem exec_parse_error {f : List Byte} {r : Raise} (h : judgeSeq f = .error r) (s : State) :
    exec (.parse f) s = .next ((s.errorEntry r).answer (.error r.error)) := by
  rw [exec_parse, h, finish_conclude_error]

/-- PARSE hands back a value only when it judges the sequence to be that value. -/
theorem judgeSeq_of_exec_parse {f : List Byte} {s t : State} {v : Value} (h : exec (.parse f) s = .next t)
    (hv : t.response = .result (.value v)) : judgeSeq f = .ok v := by
  cases h
  cases hj : judgeSeq f with
  | ok w => simpa [hj] using hv
  | error r => simp [hj] at hv

/-! ### The fixed frame -/

/-- What CompleteFixed leaves: the checksum's error, else the end byte's, else the value (42_frame_parser.md R154). -/
theorem finish_judgeFixed (a c lo hi k e : Byte) (s : State) :
    finish (s.conclude (judgeFixed [a, c, lo, hi, k, e])) =
      if k ≠ sum8 [c, lo, hi] then { s with
        err := { code := 3, pos := 4, got := k, exp := sum8 [c, lo, hi] }, eChk := 1
        response := .result (.error .checksumMismatch) }
      else if e ≠ 0x16 then { s with
        err := { code := 4, pos := 5, got := e, exp := 0x16 }, eEnd := 1, response := .result (.error .wrongEndByte) }
      else { s with response := .result (.value (.fixFrame { ctrl := unpackCtrl c, addr := u16le lo hi })) } := by
  have chain : judgeFixed [a, c, lo, hi, k, e] =
      if k ≠ sum8 [c, lo, hi] then .error ⟨.checksumMismatch, 4, k, sum8 [c, lo, hi]⟩
      else if e ≠ 0x16 then .error ⟨.wrongEndByte, 5, e, 0x16⟩
      else .ok (.fixFrame { ctrl := unpackCtrl c, addr := u16le lo hi }) := rfl
  rw [chain]
  split_ifs <;> rfl

theorem exec_parse_fixed (c lo hi k e : Byte) (s : State) :
    exec (.parse [startFixed, c, lo, hi, k, e]) s =
      .next (finish (s.conclude (judgeFixed [startFixed, c, lo, hi, k, e]))) := by
  rw [exec_parse, judgeSeq_fixed]

/-! ### The variable frame around its summed bytes -/

/-- A variable frame with any bytes in the places that are judged: two lengths, the second start byte, the summed bytes,
the checksum and the end byte (30_encoding.md R73). -/
def varLayout (l l' m : Byte) (body : List Byte) (k e : Byte) : List Byte := [startVar, l, l', m] ++ (body ++ [k, e])

theorem varFrameBytes_eq_varLayout (x : VarFields) :
    varFrameBytes x = varLayout (declaredLength x.data) (declaredLength x.data) startVar (varSummed x)
      (sum8 (varSummed x)) endByte :=
  varFrameBytes_eq x

/-- Every sequence that starts with 0x68 and is as long as it declares has this layout. -/
theorem exists_varLayout {l : Byte} {r : List Byte} (h : r.length = l.toNat + 4) :
    ∃ l' m body k e, body.length = l.toNat ∧ startVar :: l :: r = varLayout l l' m body k e := by
  match r, h with
  | l' :: m :: r, h =>
    simp only [List.length_cons] at h
    obtain ⟨k, e, htail⟩ := List.length_eq_two.mp (show (r.drop l.toNat).length = 2 by rw [List.length_drop]; omega)
    refine ⟨l', m, r.take l.toNat, k, e, by rw [List.length_take]; omega, ?_⟩
    rw [varLayout, ← htail, List.take_append_drop]
    rfl

/-- PARSE of this layout is CompleteVar. -/
theorem judgeSeq_varLayout {l : Byte} {body : List Byte} (h : body.length = l.toNat) (l' m k e : Byte) :
    judgeSeq (varLayout l l' m body k e) = judgeVar (varLayout l l' m body k e) :=
  judgeSeq_var (r := l' :: m :: (body ++ [k, e])) (by simp [h])

/-- CompleteVar of this layout, in the order of the offsets (42_frame_parser.md R155). -/
theorem judgeVar_varLayout {l : Byte} {body : List Byte} (h : body.length = l.toNat) (l' m k e : Byte) :
    judgeVar (varLayout l l' m body k e) =
      if l.toNat < 9 then .error ⟨.lengthMismatch, 1, l, 9⟩
      else if l' ≠ l then .error ⟨.lengthMismatch, 2, l', l⟩
      else if m ≠ 0x68 then .error ⟨.badStartByte, 3, m, 0x68⟩
      else if k ≠ sum8 body then .error ⟨.checksumMismatch, posOf (l.toNat + 4), k, sum8 body⟩
      else if e ≠ 0x16 then .error ⟨.wrongEndByte, posOf (l.toNat + 5), e, 0x16⟩
      else .ok (.varFrame (varValue (varLayout l l' m body k e) l.toNat)) := by
  have summed : ((varLayout l l' m body k e).drop 4).take l.toNat = body := List.take_left' h
  have checksum : byteAt (varLayout l l' m body k e) (l.toNat + 4) = k := by simp [byteAt, varLayout, ← h]
  have ending : byteAt (varLayout l l' m body k e) (l.toNat + 5) = e := by simp [byteAt, varLayout, ← h]
  have length : byteAt (varLayout l l' m body k e) 1 = l := rfl
  simp only [judgeVar, length, summed, checksum, ending]
  rfl

/-- What CompleteVar leaves (42_frame_parser.md R155, R156). -/
theorem finish_judgeVar {l : Byte} {body : List Byte} (h : body.length = l.toNat) (l' m k e : Byte) (s : State) :
    finish (s.conclude (judgeVar (varLayout l l' m body k e))) =
      if l.toNat < 9 then { s with
        err := { code := 2, pos := 1, got := l, exp := 9 }, eLen := 1, response := .result (.error .lengthMismatch) }
      else if l' ≠ l then { s with
        err := { code := 2, pos := 2, got := l', exp := l }, eLen := 1, response := .result (.error .lengthMismatch) }
      else if m ≠ 0x68 then { s with
        err := { code := 1, pos := 3, got := m, exp := 0x68 }, eBsb := 1, response := .result (.error .badStartByte) }
      else if k ≠ sum8 body then { s with
        err := { code := 3, pos := BitVec.ofNat 9 (l.toNat + 4), got := k, exp := sum8 body }, eChk := 1
        response := .result (.error .checksumMismatch) }
      else if e ≠ 0x16 then { s with
        err := { code := 4, pos := BitVec.ofNat 9 (l.toNat + 5), got := e, exp := 0x16 }, eEnd := 1
        response := .result (.error .wrongEndByte) }
      else { s with
        response := .result (.value (.varFrame (varValue (varLayout l l' m body k e) l.toNat))) } := by
  rw [judgeVar_varLayout h]
  split_ifs <;> rfl

theorem exec_parse_varLayout {l : Byte} {body : List Byte} (h : body.length = l.toNat) (l' m k e : Byte) (s : State) :
    exec (.parse (varLayout l l' m body k e)) s =
      .next (finish (s.conclude (judgeVar (varLayout l l' m body k e)))) := by
  rw [exec_parse, judgeSeq_varLayout h]

/-- The fields CompleteVar reads pack to the bytes they were read from. -/
theorem varSummed_varValue {l : Byte} {body : List Byte} (h : body.length = l.toNat) (h9 : 9 ≤ l.toNat)
    (l' m k e : Byte) : varSummed (varValue (varLayout l l' m body k e) l.toNat) = body := by
  obtain ⟨n, hn⟩ := Nat.exists_eq_add_of_le' h9
  match body, h.trans hn with
  | c :: alo :: ahi :: tid :: vsq :: cot :: plo :: phi :: ra :: data, hdata =>
    have data_eq : ((varLayout l l' m (c :: alo :: ahi :: tid :: vsq :: cot :: plo :: phi :: ra :: data) k e).drop 13).take
        (l.toNat - hdrOverhead) = data := List.take_left' (by simpa [hn] using hdata)
    rw [varValue, data_eq]
    simp [varSummed, varHeader, varLayout, byteAt]

/-! ### The complete frame in PRS.BUF -/

theorem Memory.slice_add (m : List Host.Cell) (i n k : Nat) :
    Memory.slice m i (n + k) = Memory.slice m i n ++ Memory.slice m (i + n) k := by
  induction n generalizing i with
  | zero => simp [Memory.slice]
  | succ n ih =>
    rw [Nat.succ_add, Memory.slice, ih, Memory.slice, Nat.succ_add_eq_add_succ]
    rfl

/-- The bytes below the last one are those that stood in BUF. -/
theorem read_write_of_lt (m : List Host.Cell) (b : Byte) {n a : Nat} (h : a < n) :
    Memory.read (Memory.write m n b) a = Memory.read m a := by
  rw [Memory.read_write, if_neg (Nat.ne_of_lt h)]

/-- With its sixth byte a fixed frame in BUF is judged. -/
theorem judgeBuffer_write_fixed {m : List Host.Cell} (h0 : Memory.read m 0 = startFixed) (b : Byte) :
    judgeBuffer (Memory.write m 5 b) =
      judgeFixed [startFixed, Memory.read m 1, Memory.read m 2, Memory.read m 3, Memory.read m 4, b] := by
  have before {a : Nat} (ha : a < 5) := read_write_of_lt m b ha
  have last : Memory.read (Memory.write m 5 b) 5 = b := by rw [Memory.read_write, if_pos rfl]
  have slice : Memory.slice (Memory.write m 5 b) 0 6 =
      [startFixed, Memory.read m 1, Memory.read m 2, Memory.read m 3, Memory.read m 4, b] := by
    simp only [Memory.slice, before, last, h0, Nat.reduceAdd, Nat.reduceLT]
  rw [judgeBuffer_fixed ((before (by decide)).trans h0), slice]

theorem slice_varLayout {m : List Host.Cell} {l : Byte} (h0 : Memory.read m 0 = startVar) (h1 : Memory.read m 1 = l) :
    Memory.slice m 0 (l.toNat + 6) = varLayout l (Memory.read m 2) (Memory.read m 3) (Memory.slice m 4 l.toNat)
      (Memory.read m (l.toNat + 4)) (Memory.read m (l.toNat + 5)) := by
  have order : l.toNat + 6 = 4 + (l.toNat + 2) := by omega
  rw [order, Memory.slice_add, Memory.slice_add, varLayout, ← h0, ← h1, Nat.zero_add, Nat.add_comm 4]
  rfl

/-- The bytes before the last one stand in BUF, and the last one is the byte fed. -/
theorem slice_write_varLayout {m : List Host.Cell} {l : Byte} (h0 : Memory.read m 0 = startVar)
    (h1 : Memory.read m 1 = l) (b : Byte) :
    Memory.slice (Memory.write m (l.toNat + 5) b) 0 (l.toNat + 6) = varLayout l (Memory.read m 2) (Memory.read m 3)
      (Memory.slice m 4 l.toNat) (Memory.read m (l.toNat + 4)) b := by
  have before {a : Nat} (ha : a < l.toNat + 5) := read_write_of_lt m b ha
  have last : Memory.read (Memory.write m (l.toNat + 5) b) (l.toNat + 5) = b := by rw [Memory.read_write, if_pos rfl]
  have summed : Memory.slice (Memory.write m (l.toNat + 5) b) 4 l.toNat = Memory.slice m 4 l.toNat :=
    Memory.slice_congr fun a _ ha => before (by omega)
  rw [slice_varLayout ((before (by omega)).trans h0) ((before (by omega)).trans h1), summed, last,
    before (a := 2) (by omega), before (a := 3) (by omega), before (by omega)]

/-- With its last byte a variable frame in BUF is judged as this layout. -/
theorem judgeBuffer_write_var {m : List Host.Cell} {l : Byte} (h0 : Memory.read m 0 = startVar)
    (h1 : Memory.read m 1 = l) (b : Byte) :
    judgeBuffer (Memory.write m (l.toNat + 5) b) = judgeVar (varLayout l (Memory.read m 2) (Memory.read m 3)
      (Memory.slice m 4 l.toNat) (Memory.read m (l.toNat + 4)) b) := by
  have before {a : Nat} (ha : a < l.toNat + 5) := read_write_of_lt m b ha
  rw [judgeBuffer_var ((before (by omega)).trans h0), (before (by omega)).trans h1, slice_write_varLayout h0 h1]

/-- The fields returned for a variable frame in BUF, by their offsets (42_frame_parser.md R160). -/
theorem varValue_slice_write {m : List Host.Cell} {l b : Byte} (h9 : 9 ≤ l.toNat) {x : VarFields}
    (hx : x = varValue (Memory.slice (Memory.write m (l.toNat + 5) b) 0 (l.toNat + 6)) l.toNat) :
    IsCtrlByte (Memory.read m 4) x.ctrl ∧ IsU16 (Memory.read m 5) (Memory.read m 6) x.addr ∧ x.tid = Memory.read m 7 ∧
      x.vsq = Memory.read m 8 ∧ IsCauseByte (Memory.read m 9) x.cot ∧ IsU16 (Memory.read m 10) (Memory.read m 11) x.pm ∧
      x.ra = Memory.read m 12 ∧ x.data = (List.range (l.toNat - 9)).map fun k => Memory.read m (13 + k) := by
  have byte {k : Nat} (hk : k < 13) : byteAt (Memory.slice (Memory.write m (l.toNat + 5) b) 0 (l.toNat + 6)) k =
      Memory.read m k := by
    rw [byteAt_slice (by omega), read_write_of_lt m b (by omega)]
  have data : ((Memory.slice (Memory.write m (l.toNat + 5) b) 0 (l.toNat + 6)).drop 13).take (l.toNat - hdrOverhead) =
      (List.range (l.toNat - 9)).map fun k => Memory.read m (13 + k) := by
    rw [take_drop_slice _ (by simp only [hdrOverhead]; omega), ← Memory.slice_eq_map]
    exact Memory.slice_congr fun k _ hk => read_write_of_lt m b (by simp only [hdrOverhead] at hk; omega)
  subst hx
  simp only [varValue, data, byte, Nat.reduceLT, true_and, and_true]
  exact ⟨isCtrlByte_unpackCtrl _, isU16_u16le _ _, isCauseByte_unpackCause _, isU16_u16le _ _⟩

/-- The FEED that completes a frame leaves what the verdict on it leaves, the parser idle. -/
theorem exec_feed_last {b : Byte} {s : State} {n : Nat} (hn : s.cnt.toNat = n) (h2 : 2 ≤ n) (hle : n ≤ 260)
    (ht : s.tot.toNat = n + 1) : exec (.feed b) s = .next (finish
      ({ s with buf := Memory.write s.buf n b, cnt := 0, tot := 0 }.conclude (judgeBuffer (Memory.write s.buf n b)))) := by
  subst hn
  have begun : s.cnt ≠ 0 := by rintro e; simp [e] at h2
  have told : s.cnt ≠ 1 := by rintro e; simp [e] at h2
  exact exec_feed (feedOne_last begun hle (fun hv => told hv.2) ht.symm b)

end Sys2Proof.Machine
end

section
/-! PROOFS. The sequences as long as they declare: PARSE judges exactly these as frames, FEEDs of one end in the same
verdict, and the accepted ones are those the builders build. -/

namespace Sys2Proof.Machine

/-! ### Sequences as long as they declare (42_frame_parser.md R165, R166) -/

/-- Six bytes from a fixed start byte on, or from a variable start byte on as many as the second byte tells. -/
inductive AsLongAsDeclared : List Byte → Prop
  | fixed (c lo hi k e : Byte) : AsLongAsDeclared [startFixed, c, lo, hi, k, e]
  | var {l : Byte} {body : List Byte} (h : body.length = l.toNat) (l' m k e : Byte) :
      AsLongAsDeclared (varLayout l l' m body k e)

theorem asLongAsDeclared_fixed {r : List Byte} (h : r.length = 5) : AsLongAsDeclared (startFixed :: r) := by
  match r, h with
  | [c, lo, hi, k, e], _ => exact .fixed c lo hi k e

theorem asLongAsDeclared_var {l : Byte} {r : List Byte} (h : r.length = l.toNat + 4) :
    AsLongAsDeclared (startVar :: l :: r) := by
  obtain ⟨l', m, body, k, e, hbody, layout⟩ := exists_varLayout h
  exact layout ▸ .var hbody l' m k e

/-- PARSE of the variable start byte alone. -/
theorem judgeSeq_startVar : judgeSeq [startVar] = .error ⟨.lengthMismatch, 1, 0, 0⟩ := rfl

/-- PARSE returns a value only for a sequence as long as it declares. -/
theorem asLongAsDeclared_of_judgeSeq {f : List Byte} {v : Value} (h : judgeSeq f = .ok v) : AsLongAsDeclared f := by
  match f with
  | [] => cases h
  | b :: r =>
    by_cases hf : b = startFixed
    · subst hf
      by_cases hr : r.length = 5
      · exact asLongAsDeclared_fixed hr
      · cases (judgeSeq_fixed_length hr).symm.trans h
    · by_cases hv : b = startVar
      · subst hv
        match r with
        | [] => cases judgeSeq_startVar.symm.trans h
        | l :: r =>
          by_cases hr : r.length = l.toNat + 4
          · exact asLongAsDeclared_var hr
          · cases (judgeSeq_var_length hr).symm.trans h
      · cases (judgeSeq_badStart hf hv r).symm.trans h

/-! ### The accepted sequences are the built ones -/

theorem judgeSeq_buildFixed (x : FixFields) : judgeSeq (buildFixed x) = .ok (.fixFrame x) :=
  (judgeSeq_fixed _ _ _ _ _).trans (judgeFixed_buildFixed x)

theorem judgeSeq_varFrameBytes {x : VarFields} (h : x.data.length ≤ 246) :
    judgeSeq (varFrameBytes x) = .ok (.varFrame x) := by
  have hbody : (varSummed x).length = (declaredLength x.data).toNat := by
    rw [varSummed_length, declaredLength_toNat h]
  rw [← judgeVar_varFrameBytes h, varFrameBytes_eq_varLayout, judgeSeq_varLayout hbody]

/-- A fixed frame CompleteFixed accepts is the one FIXBLD builds from its value. -/
theorem eq_buildFixed_of_judgeFixed {c lo hi k e : Byte} {v : Value}
    (h : judgeFixed [startFixed, c, lo, hi, k, e] = .ok v) :
    ∃ x, v = .fixFrame x ∧ [startFixed, c, lo, hi, k, e] = buildFixed x := by
  rcases judgeFixed_cases [startFixed, c, lo, hi, k, e] with ⟨-, bad⟩ | ⟨-, -, bad⟩ | ⟨hk, he, good⟩
  · cases bad.symm.trans h
  · cases bad.symm.trans h
  cases good.symm.trans h
  have hk : k = sum8 [c, lo, hi] := hk
  have he : e = endByte := he
  exact ⟨_, rfl, by simp [buildFixed, fixedFrameBytes, fixedValue, byteAt, hk, he]⟩

/-- A variable frame CompleteVar accepts is the one VARBLD builds from its value. -/
theorem eq_varFrameBytes_of_judgeVar {l : Byte} {body : List Byte} (hbody : body.length = l.toNat) {l' m k e : Byte}
    {v : Value} (h : judgeVar (varLayout l l' m body k e) = .ok v) :
    ∃ x, v = .varFrame x ∧ x.data.length ≤ 246 ∧ varLayout l l' m body k e = varFrameBytes x := by
  rw [judgeVar_varLayout hbody] at h
  split_ifs at h with h9 hl' hm hk he
  cases h
  obtain rfl := not_not.mp hl'
  obtain rfl := not_not.mp hm
  obtain rfl := not_not.mp hk
  obtain rfl := not_not.mp he
  have summed := varSummed_varValue hbody (Nat.le_of_not_lt h9) l' 0x68 (sum8 body) 0x16
  generalize varValue (varLayout l' l' 0x68 body (sum8 body) 0x16) l'.toNat = x at summed
  subst summed
  have hdata : l'.toNat = 9 + x.data.length := hbody.symm.trans (varSummed_length x)
  have declared : declaredLength x.data = l' := by
    rw [declaredLength, hdrOverhead, ← hdata, BitVec.ofNat_toNat, BitVec.setWidth_eq]
  exact ⟨x, rfl, by omega, by rw [varFrameBytes_eq_varLayout, declared]; rfl⟩

/-- What PARSE accepts is what a builder builds from the value returned (42_frame_parser.md R167). -/
theorem built_of_judgeSeq {f : List Byte} {v : Value} (h : judgeSeq f = .ok v) :
    (∃ x, v = .fixFrame x ∧ f = buildFixed x) ∨
      ∃ x, v = .varFrame x ∧ x.data.length ≤ 246 ∧ f = varFrameBytes x := by
  cases asLongAsDeclared_of_judgeSeq h with
  | fixed c lo hi k e => exact .inl (eq_buildFixed_of_judgeFixed ((judgeSeq_fixed ..).symm.trans h))
  | var hbody l' m k e =>
    exact .inr (eq_varFrameBytes_of_judgeVar hbody ((judgeSeq_varLayout hbody ..).symm.trans h))

/-! ### FEEDs of a whole sequence -/

/-- With the last byte the sequence lies in BUF and gets the verdict PARSE gives it. -/
theorem feedAll_asLongAsDeclared {f : List Byte} (hf : AsLongAsDeclared f) {s t : State} (h : s.cnt = 0)
    (ht : t = { s with buf := Memory.writeAll s.buf 0 f, cnt := 0, tot := 0 }) :
    feedAll f s = .ok ((t.conclude (judgeSeq f)).1,
      List.replicate (f.length - 1) .none ++ [(t.conclude (judgeSeq f)).2]) := by
  cases hf with
  | fixed c lo hi k e =>
    rw [judgeSeq_fixed]
    exact feedAll_fixedFrame h c lo hi k e ht
  | @var l body hbody l' m k e =>
    have layout : varLayout l l' m body k e = startVar :: l :: (l' :: m :: (body ++ [k]) ++ [e]) := by simp [varLayout]
    have length : (varLayout l l' m body k e).length - 1 = (l' :: m :: (body ++ [k])).length + 2 := by simp [layout]
    rw [judgeSeq_varLayout hbody, length]
    exact feedAll_varFrame h (by simp [hbody]) layout ht

/-- What the last operation of a run handed back stands in `response` (assumption log 6). -/
theorem runOps_response {is : List Instr} {s u : State} {rs : List Response} (h : runOps is s = .next (u, rs))
    (hne : is ≠ []) : rs.getLast? = some u.response := by
  induction is generalizing s rs with
  | nil => exact absurd rfl hne
  | cons i is ih =>
    cases hi : exec i s with
    | fault | refused => simp [runOps, hi] at h
    | next t =>
      cases hrun : runOps is t with
      | fault | refused => simp [runOps, hi, hrun] at h
      | next p =>
        simp only [runOps, hi, hrun] at h
        cases h
        cases is with
        | nil =>
          cases hrun
          rfl
        | cons j js => rw [List.getLast?_cons, ih hrun (List.cons_ne_nil j js), Option.getD_some]

/-- FEEDs one after another end in the chunk's state, with the last result as the response. -/
theorem runOps_feeds_last {bs : List Byte} (hne : bs ≠ []) {s t : State} {rs : List Result} {r : Result}
    (h : feedAll bs s = .ok (t, rs ++ [r])) :
    runOps (bs.map .feed) s = .next (t.answer r, rs.map .result ++ [.result r]) := by
  obtain ⟨x, run⟩ := (runOps_feeds bs s).1 t _ h
  have last := runOps_response run (by simpa using hne)
  rw [List.map_append, List.map_singleton, List.getLast?_append, List.getLast?_singleton] at last
  cases last
  rw [run, List.map_append]
  rfl

/-- An operation that ends without a look at BUF ends alike over any bytes of it. -/
theorem finish_conclude_withBuf (s : State) (m : List Host.Cell) (e : Except Raise Value) :
    finish ({ s with buf := m }.conclude e) = { finish (s.conclude e) with buf := m } := by
  cases e with
  | ok v => rfl
  | error r => rw [finish_conclude_error, errorEntry_withBuf]; rfl

end Sys2Proof.Machine
end

section
/-! PROOFS. The obligations about PARSE and FEED together (42_frame_parser.md R166, R167), each from the lemmas above. -/

namespace Sys2Proof.Machine

/-- Settles O27: a sequence as long as it declares is one chunk of FEEDs that ends in PARSE's verdict, and the verdict does
not look at the state. -/
theorem parseAgreesWithFeed : Obligations.ParseAgreesWithFeed := by
  intro f s hcnt htot hf
  have declared : AsLongAsDeclared f := by
    rcases hf with ⟨hhead, hlen⟩ | ⟨l, r, rfl, hlen⟩
    · obtain ⟨r, rfl⟩ := List.head?_eq_some_iff.mp hhead
      exact asLongAsDeclared_fixed (by simpa using hlen)
    · exact asLongAsDeclared_var (by simpa using hlen)
  have hne : f ≠ [] := by rintro rfl; cases declared
  have idle : { s with buf := Memory.writeAll s.buf 0 f } =
      { s with buf := Memory.writeAll s.buf 0 f, cnt := 0, tot := 0 } := by rw [hcnt, htot]
  have run := runOps_feeds_last hne (feedAll_asLongAsDeclared declared hcnt idle)
  have end_eq := finish_conclude_withBuf s (Memory.writeAll s.buf 0 f) (judgeSeq f)
  refine ⟨finish (s.conclude (judgeSeq f)), Memory.writeAll s.buf 0 f, exec_parse f s, ?_⟩
  have last : (finish (s.conclude (judgeSeq f))).response = .result _ := (congrArg State.response end_eq).symm
  rw [← end_eq, last]
  rwa [List.map_replicate] at run

/-- Settles O28: the builders put what PARSE looks for, and what PARSE accepts is what they build. -/
theorem frameRoundTrip : Obligations.FrameRoundTrip := by
  refine ⟨fun x s => ⟨buildFixed x, exec_fixbld x s, ?_⟩, fun x s h => ⟨varFrameBytes x, exec_varbld_fits h s, ?_⟩,
    fun f x s t ht hx => ?_, fun f x s t ht hx => ?_⟩
  · rw [exec_parse, judgeSeq_buildFixed]
    rfl
  · rw [exec_parse, judgeSeq_varFrameBytes h]
    rfl
  · obtain ⟨_, ⟨⟩, rfl⟩ | ⟨_, ⟨⟩, -, -⟩ := built_of_judgeSeq (judgeSeq_of_exec_parse ht hx)
    exact exec_fixbld x s
  · obtain ⟨_, ⟨⟩, -⟩ | ⟨_, ⟨⟩, hdata, rfl⟩ := built_of_judgeSeq (judgeSeq_of_exec_parse ht hx)
    exact exec_varbld_fits hdata s

end Sys2Proof.Machine
end

section
/-! PROOFS. One summed byte of a built frame changed: the layout stays, and the sum over the summed bytes does not. -/

namespace Sys2Proof.Machine

/-! ### One byte changed -/

/-- Another value at one place gives another sum, for all other bytes cancel. -/
theorem sum8_set_ne {b : List Byte} {i : Nat} {v : Byte} (hi : i < b.length) (h : b.getD i 0 ≠ v) :
    sum8 b ≠ sum8 (b.set i v) := by
  have parts : b.take i ++ b[i] :: b.drop (i + 1) = b := by simp
  have sums := mt (sum8_replace_inj (a := b.take i) (b := b.drop (i + 1)) (x := b[i]) (y := v)).mp
  rw [parts, ← List.getD_eq_getElem b 0 hi] at sums
  rw [List.set_eq_take_append_cons_drop, if_pos hi]
  exact sums h

/-- A change between an opening `o` and what follows the bytes `b`. -/
theorem set_between (o b t : List Byte) {i : Nat} (v : Byte) (hlo : o.length ≤ i) (hhi : i < o.length + b.length) :
    (o ++ (b ++ t)).set i v = o ++ (b.set (i - o.length) v ++ t) := by
  rw [List.set_append_right _ _ hlo, List.set_append_left _ _ (by omega)]

theorem getD_between (o b t : List Byte) {i : Nat} (hlo : o.length ≤ i) (hhi : i < o.length + b.length) :
    (o ++ (b ++ t)).getD i 0 = b.getD (i - o.length) 0 := by
  rw [List.getD_append_right _ _ _ _ hlo, List.getD_append _ _ _ _ (by omega)]

/-- A byte between changed to another value changes the sum of the bytes there. -/
theorem sum8_set_between_ne {o b t : List Byte} {i : Nat} {v : Byte} (hlo : o.length ≤ i)
    (hhi : i < o.length + b.length) (h : (o ++ (b ++ t)).getD i 0 ≠ v) : sum8 b ≠ sum8 (b.set (i - o.length) v) := by
  rw [getD_between o b t hlo hhi] at h
  exact sum8_set_ne (by omega) h

/-! ### The built frames -/

/-- The summed range of a fixed frame (41_frame_builder.md R130). -/
def fixSummed (x : FixFields) : List Byte := [packCtrl x.ctrl, lo8 x.addr, hi8 x.addr]

theorem buildFixed_eq (x : FixFields) :
    buildFixed x = [startFixed] ++ (fixSummed x ++ [sum8 (fixSummed x), endByte]) := rfl

theorem eq_of_exec_fixbld {x : FixFields} {f : List Byte} {s : State}
    (h : exec (.fixbld x) s = .next { s with response := .result (.value (.bytes f)) }) : f = buildFixed x := by
  rw [exec_fixbld] at h
  simpa using h.symm

/-- VARBLD hands back bytes only when the data fit. -/
theorem eq_of_exec_varbld {x : VarFields} {f : List Byte} {s : State}
    (h : exec (.varbld x) s = .next { s with response := .result (.value (.bytes f)) }) :
    x.data.length ≤ 246 ∧ f = varFrameBytes x := by
  by_cases hx : x.data.length ≤ 246
  · rw [exec_varbld_fits hx] at h
    exact ⟨hx, by simpa using h.symm⟩
  · rw [exec_varbld_overflows (Nat.lt_of_not_le hx)] at h
    simp at h

/-- PARSE of a fixed frame built around another checksum than that of its summed bytes. -/
theorem exec_parse_fixed_badSum {body : List Byte} (hbody : body.length = 3) {k : Byte} (hk : k ≠ sum8 body) (e : Byte)
    (s : State) : exec (.parse ([startFixed] ++ (body ++ [k, e]))) s = .next { s with
      err := { code := 3, pos := 4, got := k, exp := sum8 body }, eChk := 1
      response := .result (.error .checksumMismatch) } := by
  obtain ⟨c, lo, hi, rfl⟩ := List.length_eq_three.mp hbody
  exact (exec_parse_fixed c lo hi k e s).trans (congrArg _ ((finish_judgeFixed ..).trans (if_pos hk)))

/-- PARSE of a variable frame built around another checksum than that of its summed bytes. -/
theorem exec_parse_varLayout_badSum {l : Byte} {body : List Byte} (hbody : body.length = l.toNat) (h9 : 9 ≤ l.toNat)
    {k : Byte} (hk : k ≠ sum8 body) (e : Byte) (s : State) :
    exec (.parse (varLayout l l startVar body k e)) s = .next { s with
      err := { code := 3, pos := BitVec.ofNat 9 (l.toNat + 4), got := k, exp := sum8 body }, eChk := 1
      response := .result (.error .checksumMismatch) } := by
  rw [exec_parse_varLayout hbody, finish_judgeVar hbody, if_neg (by omega), if_neg (not_not.mpr rfl),
    if_neg (by decide), if_pos hk]

end Sys2Proof.Machine
end

section
/-! PROOFS. The obligations about the frame parser (42_frame_parser.md) that speak of FEED, of ABORT or of PARSE alone, each
from the lemmas above. -/

namespace Sys2Proof.Machine

/-- Settles O18: an idle parser stays idle over a byte that opens no frame, so a run of such bytes is judged byte by byte. -/
theorem feedJudgesTheFirstByte : Obligations.FeedJudgesTheFirstByte := by
  refine ⟨fun b s h => ⟨?_, ?_, fun hf hv => exec_feed (feedOne_badStart h hf hv)⟩, fun bs s h hbs => ?_⟩
  · rintro rfl
    exact ⟨_, Memory.read_write _ _ _, exec_feed (feedOne_openFixed h)⟩
  · rintro rfl
    exact ⟨_, Memory.read_write _ _ _, exec_feed (feedOne_openVar h)⟩
  · induction bs generalizing s with
    | nil => exact ⟨s, h, rfl⟩
    | cons b bs ih =>
      obtain ⟨⟨hf, hv⟩, rest⟩ := List.forall_mem_cons.mp hbs
      obtain ⟨t, ht, run⟩ := ih (finish (s.raise ⟨.badStartByte, 0, b, 0⟩)) (by simpa using h) rest
      exact ⟨t, ht, runOps_feed (feedOne_badStart h hf hv) run⟩

/-- Settles O19: the byte goes to `BUF[CNT]`, and only as a variable frame's second byte does it give TOT. -/
theorem feedStoresInsideAFrame : Obligations.FeedStoresInsideAFrame := by
  intro b s h0 hle
  refine ⟨_, Memory.read_write s.buf s.cnt.toNat b, fun ⟨hm, hc⟩ => ?_, fun hl ht => ?_⟩
  · have htot : BitVec.ofNat 9 (b.toNat + 6) = b.setWidth 9 + 6 := by bv_omega
    rw [htot, hc]
    exact exec_feed (feedOne_length hm hc b)
  · have hcnt : BitVec.ofNat 9 (s.cnt.toNat + 1) = s.cnt + 1 := by bv_omega
    rw [hcnt]
    exact exec_feed (feedOne_more h0 hle hl ht b)

/-- Settles O20: with its sixth byte the frame lies in BUF and is judged. -/
theorem feedCompletesAFixedFrame : Obligations.FeedCompletesAFixedFrame := by
  intro b s hcnt htot hm
  have fed := exec_feed_last (b := b) (show s.cnt.toNat = 5 by rw [hcnt]; rfl) (by decide) (by decide) (by rw [htot]; rfl)
  rw [judgeBuffer_write_fixed hm, finish_judgeFixed] at fed
  exact ⟨_, _, _, Memory.read_write s.buf 5 b, isSum_sum8 _, isCtrlByte_unpackCtrl _, isU16_u16le _ _, fed⟩

/-- Settles O21: with its last byte the frame lies in BUF and is judged in the order of the offsets. -/
theorem feedCompletesAVariableFrame : Obligations.FeedCompletesAVariableFrame := by
  intro b l s hm hl hcnt htot
  have hlt := l.isLt
  have fed := exec_feed_last (b := b) hcnt (by omega) (by omega) htot
  rw [judgeBuffer_write_var hm hl, finish_judgeVar (Memory.length_slice ..)] at fed
  refine ⟨_, sum8 (Memory.slice s.buf 4 l.toNat), Memory.read_write s.buf (l.toNat + 5) b,
    Memory.slice_eq_map s.buf 4 l.toNat ▸ isSum_sum8 _, fun h => ?_, fun h h2 => ?_, fun h h2 h3 => ?_,
    fun h h2 h3 h4 => ?_, fun h h2 h3 h4 h5 => ?_, fun h h2 h3 h4 h5 => ?_⟩
  · rw [fed, if_pos h]
  · rw [fed, if_neg (by omega), if_pos h2]
  · rw [fed, if_neg (by omega), if_neg (not_not.mpr h2), if_pos h3]
  · rw [fed, if_neg (by omega), if_neg (not_not.mpr h2), if_neg (not_not.mpr h3), if_pos h4]
  · rw [fed, if_neg (by omega), if_neg (not_not.mpr h2), if_neg (not_not.mpr h3), if_neg (not_not.mpr h4), if_pos h5]
  · rw [if_neg (by omega), if_neg (not_not.mpr h2), if_neg (not_not.mpr h3), if_neg (not_not.mpr h4),
      if_neg (not_not.mpr h5), ← slice_write_varLayout hm hl] at fed
    obtain ⟨hctrl, haddr, htid, hvsq, hcot, hpm, hra, hdata⟩ := varValue_slice_write (m := s.buf) (b := b) h rfl
    exact ⟨_, hctrl, haddr, htid, hvsq, hcot, hpm, hra, hdata, fed⟩

/-- Settles O24: each check has its own law about PARSE's judgement. -/
theorem parseChecksTheSequenceLength : Obligations.ParseChecksTheSequenceLength := by
  refine fun f s => ⟨?_, ?_, ?_, ?_, ?_⟩
  · rintro rfl
    exact exec_parse_error judgeSeq_nil s
  · rintro b r rfl hf hv
    exact exec_parse_error (judgeSeq_badStart hf hv r) s
  · rintro r rfl h
    exact exec_parse_error (judgeSeq_fixed_length h) s
  · rintro rfl
    exact exec_parse_error judgeSeq_startVar s
  · rintro l r rfl h
    exact exec_parse_error (judgeSeq_var_length h) s

/-- Settles O25: PARSE of six bytes is CompleteFixed of them. -/
theorem parseJudgesAFixedFrame : Obligations.ParseJudgesAFixedFrame := by
  intro c lo hi k e s
  exact ⟨_, _, isSum_sum8 _, isCtrlByte_unpackCtrl c, isU16_u16le lo hi,
    (exec_parse_fixed c lo hi k e s).trans (congrArg _ (finish_judgeFixed ..))⟩

/-- Settles O26: PARSE of a sequence as long as it declares is CompleteVar of it. -/
theorem parseJudgesAVariableFrame : Obligations.ParseJudgesAVariableFrame := by
  refine ⟨fun l r s hr hl => ?_, fun l l' m c alo ahi tid vsq cot plo phi ra k e data s hl => ?_⟩
  · obtain ⟨l', m, body, k, e, hbody, layout⟩ := exists_varLayout hr
    have parsed := exec_parse_varLayout hbody l' m k e s
    rw [finish_judgeVar hbody, if_pos hl, ← layout] at parsed
    exact parsed
  · have hbody : ([c, alo, ahi, tid, vsq, cot, plo, phi, ra] ++ data).length = l.toNat := by
      rw [hl, List.length_append]
      rfl
    have hdata : data.length = l.toNat - 9 := by omega
    have parsed := exec_parse_varLayout hbody l' m k e s
    rw [finish_judgeVar hbody, if_neg (by omega)] at parsed
    exact ⟨_, _, isSum_sum8 _, isCtrlByte_unpackCtrl c, isU16_u16le alo ahi, rfl, rfl, isCauseByte_unpackCause cot,
      isU16_u16le plo phi, rfl, List.take_left' hdata, parsed⟩

/-- Settles O30: the change keeps the layout and the checksum byte, and changes the sum over the summed bytes. -/
theorem aChangedSummedByteIsCaught : Obligations.AChangedSummedByteIsCaught := by
  refine ⟨fun x f s i v hf hlo hhi hne => ?_, fun x f s i v hf hlo hhi hne => ?_⟩
  · obtain rfl := eq_of_exec_fixbld hf
    have inside : i < [startFixed].length + (fixSummed x).length := Nat.lt_succ_of_le hhi
    have changed := set_between [startFixed] (fixSummed x) [sum8 (fixSummed x), endByte] v hlo inside
    have length : ((fixSummed x).set (i - 1) v).length = 3 := List.length_set
    rw [buildFixed_eq, changed]
    refine ⟨sum8 ((fixSummed x).set (i - 1) v), ?_,
      exec_parse_fixed_badSum length (sum8_set_between_ne hlo inside hne) endByte s⟩
    exact (isSum_iff _ _).mpr (congrArg sum8 (List.take_left' length)).symm
  · obtain ⟨hx, rfl⟩ := eq_of_exec_varbld hf
    have declared := declaredLength_toNat hx
    have inside : i < (varOpening x).length + (varSummed x).length := by
      rw [varSummed_length, varOpening]
      simp only [List.length_cons, List.length_nil]
      omega
    have length : ((varSummed x).set (i - 4) v).length = 9 + x.data.length := by
      rw [List.length_set, varSummed_length]
    have changed : (varFrameBytes x).set i v = varLayout (declaredLength x.data) (declaredLength x.data) startVar
        ((varSummed x).set (i - 4) v) (sum8 (varSummed x)) endByte := by
      rw [varFrameBytes_eq]
      exact set_between (varOpening x) (varSummed x) _ v hlo inside
    have checksum : (varFrameBytes x).getD (x.data.length + 13) 0 = sum8 (varSummed x) := by
      have offset : x.data.length + 13 = 9 + x.data.length + 4 + 0 := by omega
      rw [← byteAt, offset, byteAt_varFrameBytes_trailer, List.getD_cons_zero]
    have hpos : x.data.length + 13 = (declaredLength x.data).toNat + 4 := by omega
    rw [varFrameBytes_eq] at hne
    rw [changed, checksum, hpos]
    refine ⟨sum8 ((varSummed x).set (i - 4) v), ?_, exec_parse_varLayout_badSum (length.trans declared.symm) (by omega)
      (sum8_set_between_ne hlo inside hne) endByte s⟩
    exact (isSum_iff _ _).mpr (congrArg sum8 (List.take_left' (by omega))).symm

/-- Settles O23: ABORT is the idle parser and the answer None. -/
theorem abortEmptiesTheParser : Obligations.AbortEmptiesTheParser := ⟨fun _ => rfl, rfl⟩

end Sys2Proof.Machine
end

section
/-! PROOFS. What the four time operations answer, and what the substitution of a zero day or month does to the bytes. -/

namespace Sys2Proof.Machine

/-! ### The answers of the four operations -/

theorem exec_t5enc (f : TimeFields) (s : State) :
    exec (.t5enc f) s = .next { s with response := .result (.value (.bytes (bytes5List (packTime f)))) } := rfl

theorem exec_t5dec (t : Bytes5) (s : State) :
    exec (.t5dec t) s = .next { s with response := .result (.value (.time5
      (substituteZero (unpackTime t)) (yearFull (unpackTime t)))) } := rfl

theorem exec_t7enc (ms : BitVec 10) (sec : BitVec 6) (f : TimeFields) (s : State) :
    exec (.t7enc ms sec f) s =
      .next { s with response := .result (.value (.bytes (bytes7List (packTime7 s.cfg.t7Order ms sec f)))) } := rfl

theorem exec_t7dec (t : Bytes7) (s : State) :
    exec (.t7dec t) s = .next { s with response := .result (.value (.time7
      (unpackMs s.cfg.t7Order (u16le t.b0 t.b1)) (unpackSec s.cfg.t7Order (u16le t.b0 t.b1))
      (substituteZero (unpackTime t.rest)) (yearFull (unpackTime t.rest)))) } := rfl

/-! ### A zero day or month in the bytes (43_time_codec.md R186) -/

/-- The low bits of a concatenation are its second part, and where they are 0 adding 1 carries into nothing. -/
theorem append_zero_as_one {v w : Nat} (hw : 0 < w) (high : BitVec v) (low : BitVec w) :
    high ++ (if low = 0 then 1 else low) =
      if (high ++ low).toNat % 2 ^ w = 0 then (high ++ low) + 1 else high ++ low := by
  have low_bits : (high ++ low).toNat % 2 ^ w = low.toNat := by
    rw [toNat_append_add, Nat.mul_add_mod_self_right, Nat.mod_eq_of_lt low.isLt]
  have low_zero : low.toNat = 0 ↔ low = 0 := BitVec.toNat_inj (y := 0)
  simp only [low_bits, low_zero]
  split_ifs with hzero
  · have one {n : Nat} (hn : 0 < n) : (1 : BitVec n).toNat = 1 := BitVec.toNat_one hn
    have carries : (high ++ (1 : BitVec w)).toNat = (high ++ low).toNat + 1 := by
      rw [toNat_append_add, toNat_append_add, one hw, low_zero.mpr hzero, Nat.add_zero]
    apply BitVec.eq_of_toNat_eq
    rw [BitVec.toNat_add, one (by omega), ← carries, Nat.mod_eq_of_lt (BitVec.isLt _)]
  · rfl

/-- The five bytes with zero day bits and zero month bits as 1 (43_time_codec.md R186). -/
def substituteZeroBits (t : Bytes5) : Bytes5 :=
  { t with
    b2 := if t.b2.toNat % 32 = 0 then t.b2 + 1 else t.b2
    b3 := if t.b3.toNat % 16 = 0 then t.b3 + 1 else t.b3 }

/-- Day and month are the low bits of their bytes, so their substitution is that of the bits. -/
theorem packTime_substituteZero (f : TimeFields) : packTime (substituteZero f) = substituteZeroBits (packTime f) := by
  have day := append_zero_as_one (by decide) f.dow f.dom
  have month := append_zero_as_one (by decide) (f.pti ++ f.eti) f.month
  rw [packTime, substituteZero, day, month]
  rfl

theorem packTime_substituteZero_unpackTime (t : Bytes5) :
    packTime (substituteZero (unpackTime t)) = substituteZeroBits t := by
  rw [packTime_substituteZero, packTime_unpackTime]

/-- Seconds and milliseconds come back as they were, whatever they are (43_time_codec.md R190). -/
theorem packTime7_substituteZero_unpack (o : T7Order) (t : Bytes7) :
    packTime7 o (unpackMs o (u16le t.b0 t.b1)) (unpackSec o (u16le t.b0 t.b1)) (substituteZero (unpackTime t.rest)) =
      { t with rest := substituteZeroBits t.rest } := by
  rw [packTime7, packSecMs_unpack, lo8_u16le, hi8_u16le, packTime_substituteZero_unpackTime]

end Sys2Proof.Machine
end

section
/-! PROOFS. The obligations about the compact times (43_time_codec.md), each from the lemmas above. -/

namespace Sys2Proof.Machine

/-- Settles O33: the packing is inverse to the unpacking, and the substitution is carried through it to the bits. -/
theorem fiveByteTimeRoundTrip : Obligations.FiveByteTimeRoundTrip := by
  refine ⟨fun f s => ⟨packTime f, yearFull f, exec_t5enc f s, ?_⟩,
    fun t s => ⟨substituteZero (unpackTime t), yearFull (unpackTime t), exec_t5dec t s, ?_⟩⟩
  · rw [exec_t5dec, unpackTime_packTime]
    rfl
  · rw [exec_t5enc, packTime_substituteZero_unpackTime]
    rfl

/-- Settles O36: under one order the 16 bits give seconds and milliseconds back, and the last five bytes are a 5-byte
time. -/
theorem sevenByteTimeRoundTrip : Obligations.SevenByteTimeRoundTrip := by
  refine ⟨fun ms sec f s => ⟨packTime7 s.cfg.t7Order ms sec f, yearFull f, exec_t7enc ms sec f s, ?_⟩,
    fun t s => ⟨_, _, _, _, exec_t7dec t s, ?_⟩⟩
  · rw [exec_t7dec, u16le_packTime7, unpackMs_packSecMs, unpackSec_packSecMs, packTime7_rest, unpackTime_packTime]
    rfl
  · rw [exec_t7enc, packTime7_substituteZero_unpack]
    rfl

/-- Settles O31, by the packed bytes as numbers. -/
theorem t5encPacksTheFields : Obligations.T5encPacksTheFields :=
  fun f s => ⟨⟨packTime f, isTime5_packTime f, exec_t5enc f s⟩, rfl⟩

/-- Settles O32: the unpacked fields are those the bytes hold. -/
theorem t5decUnpacksTheFields : Obligations.T5decUnpacksTheFields :=
  fun t s => ⟨⟨unpackTime t, yearFull (unpackTime t), isTime5_unpackTime t, yearFull_toNat _, exec_t5dec t s⟩, rfl⟩

/-- Settles O34, by the 16 bits of seconds and milliseconds and the packed bytes as numbers. -/
theorem t7encPacksTheFields : Obligations.T7encPacksTheFields :=
  fun ms sec f s => ⟨⟨_, _, packTime f, isSecMs_packSecMs s.cfg.t7Order ms sec, isTime5_packTime f,
    exec_t7enc ms sec f s⟩, rfl⟩

/-- Settles O35: the unpacked seconds, milliseconds and fields are those the bytes hold. -/
theorem t7decUnpacksTheFields : Obligations.T7decUnpacksTheFields :=
  fun t s => ⟨⟨_, _, unpackTime t.rest, yearFull (unpackTime t.rest), isSecMs_unpack s.cfg.t7Order t.b0 t.b1,
    isTime5_unpackTime t.rest, yearFull_toNat _, exec_t7dec t s⟩, rfl⟩

end Sys2Proof.Machine
end

section
/-! PROOFS. What the operations on SEQ and on the error record answer, the frame-count bit inverted, and the control bytes of
the sequencer's requests as numbers. -/

namespace Sys2Proof.Machine

/-! ### The frame-count bit -/

/-- The exclusive or with 1 is the other of the two values (44_sequencer.md R211). -/
theorem toNat_xor_one (b : Bit) : (b ^^^ 1).toNat = 1 - b.toNat := by
  revert b
  decide

theorem toggleFcb_fcb_toNat (s : State) : s.toggleFcb.fcb.toNat = 1 - s.fcb.toNat := toNat_xor_one s.fcb

/-! ### The control bytes of the requests (44_sequencer.md R215) -/

theorem packCtrl_linkCtrl_toNat (fc : BitVec 4) : (packCtrl (linkCtrl fc)).toNat = 64 + fc.toNat := by
  simp [packCtrl_toNat, linkCtrl]

/-- The control byte 0x49 of the link-status request (44_sequencer.md R213). -/
theorem packCtrl_linkStatus : packCtrl (linkCtrl fcLinkStatus) = 0x49 := by decide

theorem packCtrl_countedCtrl_toNat (v : Bit) (fc : BitVec 4) :
    (packCtrl (countedCtrl v fc)).toNat = 64 + 32 * v.toNat + 16 + fc.toNat := by
  simp [packCtrl_toNat, countedCtrl]

/-! ### The answers of the operations -/

theorem exec_fcbnext (s : State) :
    exec .fcbnext s = .next { s with fcb := s.fcb ^^^ 1, response := .result (.value (.bit (s.fcb ^^^ 1))) } := rfl

theorem exec_linkstat (s : State) :
    exec .linkstat s = .next { s with response := .result (.value (.bytes
      [0x10, 0x49, lo8 s.der, hi8 s.der, sum8 [0x49, lo8 s.der, hi8 s.der], 0x16])) } := by
  rw [← packCtrl_linkStatus]
  rfl

theorem exec_linkrst (s : State) :
    exec .linkrst s = .next { s with response := .result (.value (.bytes
      (buildFixed { ctrl := linkCtrl s.cfg.fcResetLink, addr := s.der }))) } := rfl

theorem exec_class2 (s : State) :
    exec .class2 s = .next { s with fcb := s.fcb ^^^ 1, response := .result (.value (.bytes
      (buildFixed { ctrl := countedCtrl (s.fcb ^^^ 1) s.cfg.fcReqClass2, addr := s.der }))) } := rfl

theorem exec_userdata_fits {x : UserFields} (h : x.data.length ≤ 246) (s : State) :
    exec (.userdata x) s = .next { s with fcb := s.fcb ^^^ 1, response := .result (.value (.bytes
      (varFrameBytes (userFrame x s.toggleFcb)))) } :=
  execUserdata_fits h s

theorem exec_wrder (v : Address) (s : State) :
    exec (.wrder v) s = .next { s with der := v, response := .result .none } := rfl

theorem exec_wrpm (v : Address) (s : State) :
    exec (.wrpm v) s = .next { s with dirpm := v, response := .result .none } := rfl

theorem exec_errclr (s : State) :
    exec .errclr s = .next { s with
      err := { code := 0, pos := 0, got := 0, exp := 0 }
      eBsb := 0, eLen := 0, eChk := 0, eEnd := 0, eBld := 0
      response := .result .none } := rfl

theorem exec_reset (s : State) : exec .reset s = .next (s.resetRegisters.answer .none) := rfl

/-- An item that issues a frame-count bit completes, and inverts the bit besides its answer. -/
theorem exec_of_issuesFrameCount {i : Instr} (hi : issuesFrameCount i = true) (s : State) :
    ∃ x, exec i s = .next (s.toggleFcb.respond x) := by
  cases i with
  | fcbnext | class2 => exact ⟨_, rfl⟩
  | userdata x => exact ⟨_, exec_userdata_fits (of_decide_eq_true hi) s⟩
  | _ => cases hi

end Sys2Proof.Machine
end

section
/-! PROOFS. The obligations about the sequencer and the registers (44_sequencer.md), each from the lemmas above. -/

namespace Sys2Proof.Machine

/-- Settles O41: the bytes of the built frame are the packed fields of the registers and the operands, around the data. -/
theorem userdataBuildsTheMessageRequest : Obligations.UserdataBuildsTheMessageRequest := by
  refine fun x s => ⟨fun h => ?_, fun h => exec_userdata_overflows h s, rfl⟩
  exact ⟨_, _, _, _, _, _, _, _, _, toNat_xor_one s.fcb, declaredLength_toNat h, packCtrl_countedCtrl_toNat _ _,
    isU16_lo8_hi8 _, isCauseByte_packCause _, isU16_lo8_hi8 _, isSum_sum8 _, exec_userdata_fits h s⟩

/-- Settles O42: an item that issues a frame-count bit inverts it, RESET writes `FCB_RESET`, and the table of the registers
each item writes names no other. -/
theorem onlyIssuingInvertsTheFrameCountBit : Obligations.OnlyIssuingInvertsTheFrameCountBit := by
  intro i s t h
  refine ⟨fun hi => ?_, ?_, ?_⟩
  · obtain ⟨x, hx⟩ := exec_of_issuesFrameCount hi s
    cases hx.symm.trans h
    exact toggleFcb_fcb_toNat s
  · rintro rfl
    cases (exec_reset s).symm.trans h
    rfl
  · obtain ⟨-, -, -, -, hfcb, -⟩ := registersAreWrittenOnlyAsTabled i s t h
    exact hfcb

/-- Settles O37: the bit returned is the one stored. -/
theorem fcbnextInvertsThenReturns : Obligations.FcbnextInvertsThenReturns :=
  fun s => ⟨⟨_, toNat_xor_one s.fcb, exec_fcbnext s⟩, rfl⟩

/-- Settles O38: only the address is read from the state. -/
theorem linkstatBuildsTheStatusRequest : Obligations.LinkstatBuildsTheStatusRequest :=
  fun s => ⟨⟨_, _, _, isU16_lo8_hi8 s.der, isSum_sum8 _, exec_linkstat s⟩, rfl⟩

/-- Settles O39: the bytes of the built frame are the packed fields. -/
theorem linkrstBuildsTheResetRequest : Obligations.LinkrstBuildsTheResetRequest :=
  fun s => ⟨⟨_, _, _, _, packCtrl_linkCtrl_toNat _, isU16_lo8_hi8 s.der, isSum_sum8 _, exec_linkrst s⟩, rfl⟩

/-- Settles O40: the bit in the frame is the one stored. -/
theorem class2BuildsTheDataRequest : Obligations.Class2BuildsTheDataRequest :=
  fun s => ⟨⟨_, _, _, _, _, toNat_xor_one s.fcb, packCtrl_countedCtrl_toNat _ _, isU16_lo8_hi8 s.der, isSum_sum8 _,
    exec_class2 s⟩, rfl⟩

/-- Settles O43: the writes by their equations, the reads by what RDREG returns for registers 2 and 3. -/
theorem addressWritesAreReadBack : Obligations.AddressWritesAreReadBack := by
  intro v s
  obtain ⟨w, readDer, -, -, hw, -⟩ := rdregReadsTheRegisters 2 { s with der := v }
  obtain ⟨u, readDirpm, -, -, -, hu, -⟩ := rdregReadsTheRegisters 3 { s with dirpm := v }
  exact ⟨exec_wrder v s, exec_wrpm v s, ⟨w, hw rfl, readDer⟩, ⟨u, hu rfl, readDirpm⟩, rfl, rfl⟩

/-- Settles O45: ERRCLR is the cleared error record and the answer None. -/
theorem errclrClearsTheErrorRecord : Obligations.ErrclrClearsTheErrorRecord := ⟨exec_errclr, rfl⟩

end Sys2Proof.Machine
end

section
/-! PROOFS. How an item ends that returns an error: the operation that raised it, and the error entry made. -/

namespace Sys2Proof.Machine

/-! ### The operations that raise an error (60_exceptions.md R240) -/

/-- All the ways an item issued in the state `s` can end with the error `r` raised: one for each group of operations that
R240's table names. -/
inductive Raises (s : State) : Instr → Raise → State → Prop
  /-- FEED enters the error with the parser idle (42_frame_parser.md R152). -/
  | fed {b : Byte} {u : State} {r : Raise} (h : feedOne b s = .ok (u.errorEntry r, .error r.error))
      (kept : ErrorsKept s u) (idle : u.cnt = 0) (hr : r.error ≠ .buildOverflow) :
      Raises s (.feed b) r ((u.errorEntry r).answer (.error r.error))
  | parsed {m : List Byte} {r : Raise} (hr : r.error ≠ .buildOverflow) :
      Raises s (.parse m) r ((s.errorEntry r).answer (.error r.error))
  /-- VARBLD or USERDATA with more data than a frame carries (41_frame_builder.md R138). -/
  | overflowed {i : Instr} {r : Raise} (hi : (∃ x, i = .varbld x) ∨ ∃ x, i = .userdata x)
      (hr : r.error = .buildOverflow) : Raises s i r ((s.errorEntry r).answer (.error r.error))

/-- A FEED that returns an error is one of a bad first byte, or of the last byte of a frame judged wrong. -/
theorem raises_of_feedOne {b : Byte} {s t : State} {e : FrameError} (h : feedOne b s = .ok (t, .error e)) :
    ∃ r, r.error = e ∧ Raises s (.feed b) r (t.answer (.error e)) := by
  rcases feedOne_cases h with ⟨-, -, -, hr⟩ | ⟨-, -, -, hr⟩ | ⟨h0, -, -, rfl, hr⟩ | ⟨-, -, -, -, hr⟩ | ⟨-, -, -, hend⟩
  · cases hr
  · cases hr
  · cases hr
    exact ⟨_, rfl, .fed h (.refl s) h0 nofun⟩
  · cases hr
  · rcases conclude_cases (storeByte b s).idle (judgeBuffer (storeByte b s).buf) with ⟨v, -, hc⟩ | ⟨r, hj, hc⟩ <;>
      cases hend.trans hc
    exact ⟨r, rfl, .fed h (storeByte_errorsKept b s) (idle_cnt _) (judgeBuffer_error hj)⟩

/-- An item that returns an error has raised it: every other operation answers None, a value or a refusal, and a received
frame a list of results. -/
theorem exec_raises {i : Instr} {s t : State} {e : FrameError} (h : exec i s = .next t)
    (he : t.response = .result (.error e)) : ∃ r, r.error = e ∧ Raises s i r t := by
  cases i with
  | feed b =>
    obtain ⟨u, r, hu, rfl⟩ := execFeed_next h
    cases he
    exact raises_of_feedOne hu
  | parse m =>
    cases hj : judgeSeq m with
    | ok v =>
      rw [exec_parse, hj] at h
      cases h
      cases he
    | error r =>
      cases (exec_parse_error hj s).symm.trans h
      cases he
      exact ⟨r, rfl, .parsed (judgeSeq_error hj)⟩
  | varbld x =>
    rcases Nat.lt_or_ge maxData x.data.length with hx | hx
    · cases (execVarbld_overflows hx s).symm.trans h
      cases he
      exact ⟨overflow x.data, rfl, .overflowed (.inl ⟨x, rfl⟩) rfl⟩
    · cases (execVarbld_fits hx s).symm.trans h
      cases he
  | userdata x =>
    rcases Nat.lt_or_ge maxData x.data.length with hx | hx
    · cases (execUserdata_overflows hx s).symm.trans h
      cases he
      exact ⟨overflow x.data, rfl, .overflowed (.inr ⟨x, rfl⟩) rfl⟩
    · cases (execUserdata_fits hx s).symm.trans h
      cases he
  | wireFixedFrame | wireVariableFrameHead =>
    obtain ⟨u, rs, -, rfl⟩ := receive_next h
    cases he
  | _ =>
    cases h
    cases he

/-! ### What the error entry leaves (60_exceptions.md R248) -/

/-- ERR.CODE of `t` is that of `e`, its flag is set, and the other flags are those of `s`. -/
structure ErrorRecorded (s t : State) (e : FrameError) : Prop where
  code : t.err.code = e.code
  bsb : t.eBsb = if e = .badStartByte then 1 else s.eBsb
  len : t.eLen = if e = .lengthMismatch then 1 else s.eLen
  chk : t.eChk = if e = .checksumMismatch then 1 else s.eChk
  endb : t.eEnd = if e = .wrongEndByte then 1 else s.eEnd
  bld : t.eBld = if e = .buildOverflow then 1 else s.eBld

theorem ErrorsKept.errorRecorded {s u : State} (h : ErrorsKept s u) (r : Raise) (x : Result) :
    ErrorRecorded s ((u.errorEntry r).answer x) r.error := by
  obtain ⟨-, hbsb, hlen, hchk, hend, hbld⟩ := h
  constructor <;> simp [hbsb, hlen, hchk, hend, hbld]

section
variable {i : Instr} {r : Raise} {s t : State}

theorem Raises.errorRecorded (h : Raises s i r t) : ErrorRecorded s t r.error := by
  cases h with
  | fed _ kept => exact kept.errorRecorded r _
  | parsed | overflowed => exact (ErrorsKept.refl s).errorRecorded r _

/-- The rows of R240's table: the frame errors come from the parser, BuildOverflow from the builders. -/
theorem Raises.source (h : Raises s i r t) :
    ((∃ b, i = .feed b) ∨ ∃ m, i = .parse m) ∧ r.error ≠ .buildOverflow ∨
      ((∃ x, i = .varbld x) ∨ ∃ x, i = .userdata x) ∧ r.error = .buildOverflow := by
  cases h with
  | fed _ _ _ hr => exact .inl ⟨.inl ⟨_, rfl⟩, hr⟩
  | parsed hr => exact .inl ⟨.inr ⟨_, rfl⟩, hr⟩
  | overflowed hi hr => exact .inr ⟨hi, hr⟩

theorem Raises.keeps_seq (h : Raises s i r t) : t.fcb = s.fcb ∧ t.der = s.der ∧ t.dirpm = s.dirpm := by
  cases h with
  | fed hf =>
    obtain ⟨-, -, hseq⟩ := feedOne_frame hf
    exact hseq
  | parsed | overflowed => simp

/-- After FEED the parser is idle (60_exceptions.md R249). -/
theorem Raises.cnt_of_feed (h : Raises s i r t) (hi : ∃ b, i = .feed b) : t.cnt = 0 := by
  obtain ⟨b, rfl⟩ := hi
  cases h with
  | fed _ _ idle => simpa using idle
  | overflowed hi => simp at hi

/-- The other operations do not touch the parser (60_exceptions.md R249). -/
theorem Raises.keeps_parser (h : Raises s i r t) (hi : ∀ b, i ≠ .feed b) :
    t.cnt = s.cnt ∧ t.tot = s.tot ∧ t.buf = s.buf := by
  cases h with
  | fed => exact absurd rfl (hi _)
  | parsed | overflowed => simp

end

end Sys2Proof.Machine
end

section
/-! PROOFS. The obligation about the errors (60_exceptions.md), from the lemmas above. -/

namespace Sys2Proof.Machine

/-- Settles O46, by the ways an item can raise an error. -/
theorem anErrorResultIsRecorded : Obligations.AnErrorResultIsRecorded := by
  intro i e s t h he
  obtain ⟨r, rfl, raised⟩ := exec_raises h he
  obtain ⟨hcode, hbsb, hlen, hchk, hend, hbld⟩ := raised.errorRecorded
  obtain ⟨hfcb, hder, hdirpm⟩ := raised.keeps_seq
  refine ⟨raised.source, ?_, hbsb, hlen, hchk, hend, hbld, hfcb, hder, hdirpm, raised.cnt_of_feed, fun hi => ?_⟩
  · rw [hcode]
    cases r.error <;> rfl
  · obtain ⟨hcnt, htot, hbuf⟩ := raised.keeps_parser hi
    exact ⟨hcnt, htot, fun a => by rw [hbuf]⟩

end Sys2Proof.Machine
end

section
/-! PROOFS. The obligations about reset and waiting (70_reset_and_hazards.md), each from the lemmas above. -/

namespace Sys2Proof.Machine

/-- Power-on leaves no register that RESET changes (70_reset_and_hazards.md R270). -/
theorem resetRegisters_powerOn (c : Config) : (State.powerOn c).resetRegisters = State.powerOn c := rfl

/-- Settles O48: RESET is the registers' reset values and the answer None, and power-on has those values already. -/
theorem resetClearsTheRegisters : Obligations.ResetClearsTheRegisters := by
  refine ⟨exec_reset, fun c => ?_, rfl⟩
  rw [exec_reset, resetRegisters_powerOn]
  rfl

/-- Settles O5: of what taking an item off the port can answer, an empty port leaves only the wait. -/
theorem stepWaitsForTheHost : Obligations.StepWaitsForTheHost := by
  intro s hp
  rcases fetch_cases s with ⟨-, hf⟩ | ⟨i, rest, hd, -⟩ | ⟨e, hne, -, -⟩
  · rw [step, hf]
  · rw [hp] at hd
    cases hd
  · exact absurd hp hne

end Sys2Proof.Machine
end
